-- ==== Sys2Proof/Word.lean ====
section
/-! DEFINITION. The words of the block: the 24-bit request word (R71), bytes, nibbles and pin ids. -/

namespace Sys2Proof

/-- A request word `W[23:0]` (R71). -/
abbrev Word := BitVec 24

/-- The argument field `W[15:0]` of a request word, a text index or a text length (R71, R50). -/
abbrev Half := BitVec 16

/-- A register, a transmitted value or a text character (R20, R24, R50). -/
abbrev Byte := BitVec 8

/-- Half of a byte, sent in one enable pulse (R16). -/
abbrev Nibble := BitVec 4

end Sys2Proof
end

