-- ==== Sys2Proof/Config.lean ====
section
/-! DEFINITION. The configuration inputs of the block (R8, R33) and the free values: constants without a body,
about which no proof can know anything. -/

namespace Sys2Proof

/-- The configuration record `CFG` of R8 and R33: static inputs, sampled at reset. -/
structure Cfg where
  /-- `ROWS`, legal values 1..4 (R8). -/
  rows : Nat
  /-- `LARGE_FONT`: effective only when `ROWS = 1` (R8, R122). -/
  largeFont : Bool
  /-- `SUPPRESS_AUTO_INIT`: whether reset leaves the initialization sequence out (R8, R220). -/
  suppressAutoInit : Bool
  /-- `COLUMNS`: informational only, bounds nothing (R8, R177). -/
  columns : Byte
  deriving DecidableEq, Repr

/-- The defaults of R8. DESIGN CHOICE (log 4): the spec gives `COLUMNS` no default; 0 here. Unsafe. -/
def Cfg.default : Cfg :=
  { rows := 1, largeFont := false, suppressAutoInit := false, columns := 0 }

/-- FREE VALUE (log 1; U4, R55): the level of a pin whose write was answered `err`. Applied to the counter `free`
of State, so that each failed write has a value of its own. Safe: nothing can be proved about it. -/
opaque Config.failedPinLevel : Nat → Bool

/-- FREE VALUE (log 3; U8, R140, R197): which of several enabled steps of the block happens next when the schedule
does not say. Applied to the counter `free` of State. Safe: nothing can be proved about it. -/
opaque Config.agentChoice : Nat → Nat

end Sys2Proof
end

