-- ==== Sys2Proof/Syntax.lean ====
section
/-! DEFINITION. Syntax: the 18 operation requests (R70), the macro steps and substeps they are made of (R100 to
R106), the pins (R54), the status codes (R83) and the moves of the agents (R7). -/

namespace Sys2Proof

/-- The operation set, one constructor per row of the opcode table (R70), with the arguments of the word's format
(R71): `len` of PRINT (R74), `col` and `row` of SETCURSOR (R73), unsigned numbers (R12). -/
inductive Instr where
  | init
  | print (len : Nat)
  | clear
  | home
  | setCursor (col row : Nat)
  | display
  | noDisplay
  | cursor
  | noCursor
  | blink
  | noBlink
  | scrollLeft
  | scrollRight
  | leftToRight
  | rightToLeft
  | autoscroll
  | noAutoscroll
  | close
  deriving DecidableEq, Repr

/-- The six write-only pins (R54). -/
inductive Pin where
  | d0 | d1 | d2 | d3 | rs | e
  deriving DecidableEq, Repr

/-- The two display-state registers (R20). -/
inductive Reg where
  | dcr | dmr
  deriving DecidableEq, Repr

/-- A macro step, the element of a step list (R17, R100). `reg r` is `Byte(R[r], 0)`, whose value is read when the
step starts (R64). Times are in microseconds (R10). -/
inductive MacroStep where
  /-- `Wait(d)` (R104). -/
  | wait (us : Nat)
  /-- `Nib(n)` (R101). -/
  | nib (n : Nibble)
  /-- `Byte(v, m)` (R102); `m = true` is character mode. -/
  | byte (v : Byte) (m : Bool)
  /-- `Byte(R[r], 0)` (R121, R155). -/
  | reg (r : Reg)
  /-- `Char(i)` (R146). -/
  | char (i : Half)
  deriving DecidableEq, Repr

/-- A substep: one pin write or one wait inside a macro step (R17, R103, R104). -/
inductive Substep where
  | write (pin : Pin) (b : Bool)
  | wait (us : Nat)
  deriving DecidableEq, Repr

/-- The status codes of a completion record (R83). -/
inductive Status where
  | ok | errProgramming | errIo | errClosed
  deriving DecidableEq, Repr

/-- One move of one agent (R7). A list of moves in State says which agent moves next; a move that is not enabled
changes nothing (log 2, log 12). -/
inductive Move where
  /-- The input `rst`, with the configuration it samples (R220, R8). -/
  | reset (cfg : Cfg)
  /-- Requester `p` posts the word `w` (R141). -/
  | post (p : Nat) (w : Word)
  /-- Requester `p` changes the word on its port; it counts only before the grant (R64). -/
  | changeWord (p : Nat) (w : Word)
  /-- Requester `p` drops `req_valid` while its request is outstanding (U5, R227). -/
  | withdraw (p : Nat)
  /-- Requester `p` writes index `i` of its own text buffer (R50, R52). -/
  | writeText (p : Nat) (i : Half) (b : Byte)
  /-- The Pin Set answers the write in flight: the signals `pw_ack` and `pw_err` in one step (R55). -/
  | pinAnswer (ack err : Bool)
  /-- The Pin Set's late answer to a write that a reset abandoned (R224). Which write an answer answers is the Pin Set's
  own doing, so it is part of the move (log 26). -/
  | lateAnswer (ack err : Bool)
  /-- The sequencer and transmitter take their next step (R26, R103, R104, R138). -/
  | engine
  /-- The arbiter grants port `p` (R136). -/
  | grant (p : Nat)
  /-- The rejection of port `p`'s posted request (R194). -/
  | reject (p : Nat)
  /-- The completion step of port `p` (R142). -/
  | complete (p : Nat)
  /-- Nobody moves: time passes (R104, no upper bound on any wait). -/
  | idle
  deriving DecidableEq, Repr

end Sys2Proof
end

