-- ==== Sys2Proof/WellFormed.lean ====
section
/-! DEFINITION. What the types do not already say of a request and of a configuration: the widths of the
arguments (R73, R74) and the legal configurations (R8). -/

namespace Sys2Proof

/-- A request fits its word: `len` has 16 bits (R74), `col` and `row` have 8 bits each (R73). -/
def Instr.wf : Instr → Bool
  | .print len => decide (len < 65536)
  | .setCursor col row => decide (col < 256) && decide (row < 256)
  | .init | .clear | .home | .display | .noDisplay | .cursor | .noCursor | .blink | .noBlink
  | .scrollLeft | .scrollRight | .leftToRight | .rightToLeft | .autoscroll | .noAutoscroll | .close => true

/-- A configuration of this hardware: `1 <= ROWS <= 4` (R8, U11). -/
def Cfg.wf (c : Cfg) : Bool := decide (1 ≤ c.rows) && decide (c.rows ≤ 4)

end Sys2Proof
end

