-- ==== Sys2Proof/Decode.lean ====
section
/-! DEFINITION. The request word (R71): the decoder, total on 24 bits, which rejects an illegal opcode by name
(R72, R76), and the encoder (R71, R79, R80). -/

namespace Sys2Proof

/-- What the decoder reads from a request word. -/
inductive Decoded where
  | request (i : Instr)
  /-- `op` names no operation (R76). -/
  | illegalOpcode (op : Byte)
  deriving DecidableEq, Repr

/-- `op = W[23:16]` (R71, R72). -/
def opField (w : Word) : Byte := w.extractLsb' 16 8

/-- `W[15:0]`: the argument field, `len` of format P (R71, R74). -/
def argField (w : Word) : Half := w.extractLsb' 0 16

/-- `col = W[7:0]`, the lower byte of the argument field (R73). -/
def colField (arg : Half) : Byte := arg.extractLsb' 0 8

/-- `row = W[15:8]`, the upper byte of the argument field (R73). -/
def rowField (arg : Half) : Byte := arg.extractLsb' 8 8

/-- Decoding by equality on the eight opcode bits alone (R70, R72); format N ignores the argument field (R75). -/
def decodeFields (op : Byte) (arg : Half) : Decoded :=
  match op.toNat with
  | 0x00 => .request .init
  | 0x01 => .request (.print arg.toNat)
  | 0x02 => .request .clear
  | 0x03 => .request .home
  | 0x04 => .request (.setCursor (colField arg).toNat (rowField arg).toNat)
  | 0x05 => .request .display
  | 0x06 => .request .noDisplay
  | 0x07 => .request .cursor
  | 0x08 => .request .noCursor
  | 0x09 => .request .blink
  | 0x0A => .request .noBlink
  | 0x0B => .request .scrollLeft
  | 0x0C => .request .scrollRight
  | 0x0D => .request .leftToRight
  | 0x0E => .request .rightToLeft
  | 0x0F => .request .autoscroll
  | 0x10 => .request .noAutoscroll
  | 0x11 => .request .close
  | _ => .illegalOpcode op

/-- The decoder of a request word (R71, R72). -/
def decode (w : Word) : Decoded := decodeFields (opField w) (argField w)

/-- The opcode of an operation (R70). -/
def opcode : Instr → Byte
  | .init => 0x00
  | .print _ => 0x01
  | .clear => 0x02
  | .home => 0x03
  | .setCursor _ _ => 0x04
  | .display => 0x05
  | .noDisplay => 0x06
  | .cursor => 0x07
  | .noCursor => 0x08
  | .blink => 0x09
  | .noBlink => 0x0A
  | .scrollLeft => 0x0B
  | .scrollRight => 0x0C
  | .leftToRight => 0x0D
  | .rightToLeft => 0x0E
  | .autoscroll => 0x0F
  | .noAutoscroll => 0x10
  | .close => 0x11

/-- The argument field the assembler emits: `len`; `row` over `col`; zeros where the format ignores it (R71, R79). -/
def argument : Instr → Half
  | .print len => BitVec.ofNat 16 len
  | .setCursor col row => BitVec.ofNat 8 row ++ BitVec.ofNat 8 col
  | .init | .clear | .home | .display | .noDisplay | .cursor | .noCursor | .blink | .noBlink
  | .scrollLeft | .scrollRight | .leftToRight | .rightToLeft | .autoscroll | .noAutoscroll | .close => 0

/-- The request word of an operation (R71, R80). -/
def encode (i : Instr) : Word := opcode i ++ argument i

/-- `W[23:16] <= 0x11`: the opcode names an operation (R76, R137). -/
def legalOp (op : Byte) : Bool := decide (op.toNat ≤ 0x11)

/-- The request an opcode-table row's bits decode to. A request is one parallel 24-bit word, bit 0 least significant
(R12, R59, R71), so the table's numbering is the word's own (log 20). -/
def decodeTableWord (nbits w : Nat) : Option Instr :=
  match decode (BitVec.ofNat 24 (w % 2 ^ nbits)) with
  | .request i => some i
  | .illegalOpcode _ => none

end Sys2Proof
end

