-- ==== Sys2Proof/Machine/Operands.lean ====
section
/-! DEFINITION. What the operations compute from their operands and the configuration, and the command bytes they
send: the bus encoding (R86 to R88), the masks (R21, R22), the row clamp and the address (R176, R177), the
pagination rule (R144). PRESUMED, as the spec marks them itself (log 15): the values G1 to G5. -/

namespace Sys2Proof.Machine

/-- The display bit `D` of DCR (R21, R156). -/
def maskDisplay : Byte := 0x04
/-- The cursor bit `C` of DCR (R21, R158). -/
def maskCursor : Byte := 0x02
/-- The blink bit `B` of DCR (R21, R160; PRESUMED, log 15). -/
def maskBlink : Byte := 0x01
/-- The direction bit `LR` of DMR (R22, R164; PRESUMED, log 15). -/
def maskLeftToRight : Byte := 0x02
/-- The autoscroll bit `AS` of DMR (R22, R166; PRESUMED, log 15). -/
def maskAutoscroll : Byte := 0x01

/-- Turn on: bitwise OR with the mask (R155). -/
def setBits (v mask : Byte) : Byte := v ||| mask
/-- Turn off: bitwise AND with the inverse mask (R155). -/
def clearBits (v mask : Byte) : Byte := v &&& ~~~mask

/-- Clear display (R86, R178). -/
def cmdClear : Byte := 0x01
/-- Return home (R86, R179; PRESUMED, log 15). -/
def cmdHome : Byte := 0x02
/-- Cursor/display shift reset, step 9 of INIT (R86, R121). -/
def cmdShiftReset : Byte := 0x10
/-- Scroll display left (R86, R162; PRESUMED, log 15). -/
def cmdScrollLeft : Byte := 0x18
/-- Scroll display right (R86, R163; PRESUMED, log 15). -/
def cmdScrollRight : Byte := 0x1C
/-- Set DDRAM address: the bit OR-ed to the address (R86, R88). -/
def cmdSetAddress : Byte := 0x80

/-- The function-set byte `FS` (R87, R122; the option bits PRESUMED, log 15). -/
def functionSet (c : Cfg) : Byte :=
  0x20 ||| (if c.rows > 1 then 0x08 else 0) ||| (if c.rows = 1 ∧ c.largeFont = true then 0x04 else 0)

/-- The row clamp: `ROWS - 1` when `row >= ROWS` (R176, C2). -/
def clampRow (rows row : Nat) : Nat := if rows ≤ row then rows - 1 else row

/-- `ROW_OFFSET`, the fixed 4-entry lookup (R11, R177); indexed by a clamped row only. -/
def rowOffset : Nat → Nat
  | 0 => 0x00
  | 1 => 0x40
  | 2 => 0x14
  | _ => 0x54

/-- The address of a cursor position: `(col + ROW_OFFSET[r]) mod 256` (R175, R177). -/
def cursorAddress (c : Cfg) (col row : Nat) : Byte :=
  BitVec.ofNat 8 (col + rowOffset (clampRow c.rows row))

/-- The byte SETCURSOR sends (R88, R175). -/
def cursorByte (c : Cfg) (col row : Nat) : Byte := cmdSetAddress ||| cursorAddress c col row

/-- `PAGE` = 80 characters (R11). -/
def page : Nat := 80

/-- The pagination rule `StartIndex(len)` (R144, C3). -/
def startIndex (len : Nat) : Nat := if 1 < len / page then (len / page - 1) * page else 0

/-- Pin ids on the pin-write port (R54, R89). -/
def pinId : Pin → BitVec 3
  | .d0 => 0
  | .d1 => 1
  | .d2 => 2
  | .d3 => 3
  | .rs => 4
  | .e => 5

/-- Status codes (R83). -/
def statusCode : Status → BitVec 2
  | .ok => 0
  | .errProgramming => 1
  | .errIo => 2
  | .errClosed => 3

end Sys2Proof.Machine
end

