-- ==== Sys2Proof/Machine/Timing.lean ====
section
/-! DEFINITION. The timing constants, in microseconds (R10), and the timer load of the clocked realisation (R241). -/

namespace Sys2Proof.Machine

/-- `T_EN` = 1 µs, after every nibble (R10, R101). -/
def tEn : Nat := 1
/-- `T_CMD` = 39 µs, after every command byte (R10, R102). -/
def tCmd : Nat := 39
/-- `T_CHR` = 43 µs, after every character byte (R10, R102). -/
def tChr : Nat := 43
/-- `T_PWRON` = 15 ms (R10, R121). -/
def tPwron : Nat := 15000
/-- `T_WAKE1` = 4.1 ms (R10, R121). -/
def tWake1 : Nat := 4100
/-- `T_WAKE2` = 160 µs (R10, R121). -/
def tWake2 : Nat := 160
/-- `T_WAKE3` = 160 µs (R10, R121). -/
def tWake3 : Nat := 160
/-- `T_CLEAR` = 3 ms (R10, C5). -/
def tClear : Nat := 3000
/-- `T_HOME` = 3 ms (R10, R179). -/
def tHome : Nat := 3000

/-- What `Wait(d)` loads into TMR: `max(1, ceil(d / T_CLK_NS))` clock periods, `d` in microseconds (R104, R241). -/
def timerLoad (us tClkNs : Nat) : Nat := max 1 ((us * 1000 + tClkNs - 1) / tClkNs)

end Sys2Proof.Machine
end

