-- ==== Sys2Proof/Machine/StepLists.lean ====
section
/-! DEFINITION. The step list of every operation (R27: a function of the operation and the configuration; a register
is read when its step starts, R64). -/

namespace Sys2Proof.Machine

/-- INIT's 14 macro steps (R121), requested or automatic (R120, R123). -/
def initSteps (c : Cfg) : List MacroStep :=
  [ .wait tPwron,
    .nib 0x3, .wait tWake1,
    .nib 0x3, .wait tWake2,
    .nib 0x3, .wait tWake3,
    .nib 0x2,
    .byte (functionSet c) false,
    .byte cmdShiftReset false,
    .reg .dcr,
    .reg .dmr,
    .byte cmdClear false,
    .wait tClear ]

/-- PRINT: one `Char` per index from the start index to `len - 1`, ascending (R143). -/
def printSteps (len : Nat) : List MacroStep :=
  (List.range (len - startIndex len)).map fun k => .char (BitVec.ofNat 16 (startIndex len + k))

/-- SETCURSOR (R175). -/
def setCursorSteps (c : Cfg) (col row : Nat) : List MacroStep := [.byte (cursorByte c col row) false]

/-- CLEAR (R178). -/
def clearSteps : List MacroStep := [.byte cmdClear false, .wait tClear]

/-- HOME (R179). -/
def homeSteps : List MacroStep := [.byte cmdHome false, .wait tHome]

/-- The six set/clear operations on DCR send DCR (R155 to R161). -/
def sendDcr : List MacroStep := [.reg .dcr]

/-- The four set/clear operations on DMR send DMR (R155, R164 to R167). -/
def sendDmr : List MacroStep := [.reg .dmr]

/-- SCROLLLEFT (R162). -/
def scrollLeftSteps : List MacroStep := [.byte cmdScrollLeft false]

/-- SCROLLRIGHT (R163). -/
def scrollRightSteps : List MacroStep := [.byte cmdScrollRight false]

/-- The step list of an operation as a function of the operation and the configuration (R27). -/
def stepListOf (c : Cfg) : Instr → List MacroStep
  | .init => initSteps c
  | .print len => printSteps len
  | .clear => clearSteps
  | .home => homeSteps
  | .setCursor col row => setCursorSteps c col row
  | .display | .noDisplay | .cursor | .noCursor | .blink | .noBlink => sendDcr
  | .scrollLeft => scrollLeftSteps
  | .scrollRight => scrollRightSteps
  | .leftToRight | .rightToLeft | .autoscroll | .noAutoscroll => sendDmr
  | .close => []

end Sys2Proof.Machine
end

