-- ==== Sys2Proof/Machine/TextMemory.lean ====
section
/-! DEFINITION. A requester's text buffer (R50): bytes at indices 0..65535, held as a list of cells in one canonical
form: indices strictly rising, and no cell equal to what an unlisted index reads as. -/

namespace Sys2Proof.Machine

/-- A text buffer `TXT[p]` (R50). -/
abbrev Memory := List Host.Cell

/-- What an unlisted index reads as. DESIGN CHOICE (log 6): the spec gives the requesters' buffers no contents; a read
never fails (R51), so a byte nothing has written reads as `0x00`. Unsafe. -/
def Memory.blankByte : Byte := 0

/-- `MemRead(TXT + i, 1)` (R51). -/
def Memory.read : Memory → Nat → Byte
  | [], _ => Memory.blankByte
  | (k, v) :: m, i => if k = i then v else Memory.read m i

/-- Put one cell at its place; the blank byte removes the cell. -/
def Memory.write : Memory → Nat → Byte → Memory
  | [], i, b => if b = Memory.blankByte then [] else [(i, b)]
  | (k, v) :: m, i, b =>
    if i < k then (if b = Memory.blankByte then (k, v) :: m else (i, b) :: (k, v) :: m)
    else if i = k then (if b = Memory.blankByte then m else (k, b) :: m)
    else (k, v) :: Memory.write m i b

/-- Every index of the list is at least `lo`, rising strictly, below 65536 and with no blank byte. -/
def Memory.wfFrom : Nat → Memory → Bool
  | _, [] => true
  | lo, (k, v) :: m =>
    decide (lo ≤ k) && decide (k < 65536) && decide (v ≠ Memory.blankByte) && Memory.wfFrom (k + 1) m

/-- The canonical form of a text buffer: equal buffers are equal lists. -/
def Memory.wf (m : Memory) : Bool := Memory.wfFrom 0 m

end Sys2Proof.Machine
end

