-- ==== Sys2Proof/Machine/State.lean ====
section
/-! DEFINITION. The state of the engine as plain data (R20 to R36), the model's faults and refusals, and the state
right after reset (R38, R220). -/

namespace Sys2Proof.Machine

/-- The engine phase `ENG` (R28). -/
inductive Phase where
  | boot | opened | closed
  deriving DecidableEq, Repr

/-- The owner of an operation: a port, or `AUTO` for the automatic initialization (R17, R27). -/
inductive Owner where
  | auto
  | port (p : Nat)
  deriving DecidableEq, Repr

/-- The current-operation record `CUR` (R27). -/
structure Cur where
  valid : Bool
  owner : Owner
  op : Byte
  arg : Half
  start : Half
  deriving DecidableEq, Repr

/-- The request state `PEND[p]` (R31). `finishing` also holds the opcode of the request it answers, which the
completion record names (R82; DEDUCED, log 9). -/
inductive Pend where
  | idle
  | posted (w : Word)
  | granted
  | finishing (op : Byte) (status : Status) (info : BitVec 3)
  deriving DecidableEq, Repr

/-- What is private to a requester port: `PEND[p]` (R31) and the text buffer `TXT[p]` (R50, R207). -/
structure Port where
  pend : Pend
  txt : Memory
  deriving DecidableEq, Repr

/-- The pin shadow `PIN[0..5]` (R32). -/
structure Pins where
  d0 : Bool
  d1 : Bool
  d2 : Bool
  d3 : Bool
  rs : Bool
  e : Bool
  deriving DecidableEq, Repr

/-- The events of a trace (R14, R36): what one step did that the outside can see. -/
inductive Event where
  /-- Reset was seen (R220). -/
  | resetSeen
  /-- `Grant(p)` (R136). -/
  | granted (p : Nat)
  /-- The text byte read by `Char(i)` (R146, R51). -/
  | textRead (i : Half) (b : Byte)
  /-- A pin write was issued (R55). -/
  | issued (pin : Pin) (b : Bool)
  /-- The pin write was answered `ack` (R55). -/
  | acked (pin : Pin) (b : Bool)
  /-- The pin write was answered `err` (R55). -/
  | failed (pin : Pin)
  /-- `Wait(d)` began (R104). -/
  | waitBegun (us : Nat)
  /-- `Wait(d)` ended (R104). -/
  | waitEnded (us : Nat)
  /-- `End(p, status, info)` (R138). -/
  | ended (p : Nat) (status : Status) (info : BitVec 3)
  /-- `reject(p, status)` (R194). -/
  | rejected (p : Nat) (status : Status)
  /-- The completion record `done(p, op, status, info)` (R82, R142). -/
  | done (p : Nat) (op : Byte) (status : Status) (info : BitVec 3)
  /-- The automatic initialization ended well (R209). -/
  | ready
  /-- The automatic initialization failed at this pin (R209). -/
  | bootErr (pin : BitVec 3)
  deriving DecidableEq, Repr

/-- What stops the machine with a fault. The error statuses of R190 are no faults: they are next states. -/
inductive Fault where
  /-- Raised by the move `engine` when the position names no substep of the current macro step, or a pin write while
  TMR runs. No state that meets the invariant of Safety.lean is such a state (R106; log 23). Safe. -/
  | lostPosition
  deriving DecidableEq, Repr

/-- What the model does not accept. -/
inductive Refusal where
  /-- An instruction without a meaning. No arm of `exec` answers it. Safe. -/
  | notModelled (mnemonic : String)
  /-- Raised by the move `withdraw` on a port with a request outstanding: the spec refuses such a requester (U5,
  R227; log 13). Safe. -/
  | requestWithdrawn (p : Nat)
  /-- Raised by the move `reset` when the sampled `ROWS` is outside 1..4 (R8, U11; log 14). Safe. -/
  | badConfiguration
  deriving DecidableEq, Repr

/-- The whole state: everything R38 lists, the inputs and parameters the model holds as data (R8, R9, R37), and the
model's own fields `steps`, `sched` and `free`. -/
structure State where
  /-- `R[DCR]` (R20, R21). -/
  dcr : Byte
  /-- `R[DMR]` (R20, R22). -/
  dmr : Byte
  /-- `FRV` (R24). -/
  frv : Byte
  /-- `FRM`: true is character mode (R24). -/
  frm : Bool
  /-- `TMR`: clock periods left of the wait in progress (R25, R241). -/
  tmr : Nat
  /-- `SEQ_STEP` (R26). -/
  seqStep : BitVec 8
  /-- `TX_SUB` (R26). -/
  txSub : BitVec 4
  /-- `CUR` (R27). -/
  cur : Cur
  /-- The step list of the operation in progress (R27; the model's own field, log 7). -/
  steps : List MacroStep
  /-- `ENG` (R28). -/
  eng : Phase
  /-- `LOCK` (R29). -/
  lock : Option Nat
  /-- `OE` (R30). -/
  oe : Bool
  /-- The requester ports, `NPORTS` of them (R9, R31, R207). -/
  ports : List Port
  /-- `PIN[0..5]` (R32). -/
  pins : Pins
  /-- `PW` (R35). -/
  pw : Option (Pin × Bool)
  /-- `CFG` as sampled at the last reset (R8, R33). -/
  cfg : Cfg
  /-- `T_CLK_NS` (R9). -/
  tClkNs : Nat
  /-- The moves still to come, the next one first (the model's own field, log 2). -/
  sched : List Move
  /-- The events of the last step, valid for that step only (R36). -/
  out : List Event
  /-- How many free values have been used (the model's own field, log 1). -/
  free : Nat
  deriving DecidableEq, Repr

/-- The pin shadow after reset (R38, R221). -/
def Pins.low : Pins := { d0 := false, d1 := false, d2 := false, d3 := false, rs := false, e := false }

/-- A port after power-on: nothing posted (R38), nothing written to its text buffer. -/
def Port.fresh : Port := { pend := .idle, txt := [] }

/-- The machine right after reset (R38, R220) with the default configuration of R8, so with the automatic
initialization about to start. DESIGN CHOICE: one port, `T_CLK_NS = 1000` (log 4), `CUR.arg` and `CUR.start` 0
(log 5), an empty schedule (log 2). Unsafe. -/
def State.reset : State :=
  { dcr := 0x0C
    dmr := 0x06
    frv := 0
    frm := false
    tmr := 0
    seqStep := 0
    txSub := 0
    cur := { valid := true, owner := .auto, op := 0x00, arg := 0, start := 0 }
    steps := initSteps Cfg.default
    eng := .boot
    lock := none
    oe := true
    ports := [Port.fresh]
    pins := Pins.low
    pw := none
    cfg := Cfg.default
    tClkNs := 1000
    sched := []
    out := []
    free := 0 }

end Sys2Proof.Machine
end

