-- ==== Sys2Proof/Machine/Ops.lean ====
section
/-! DEFINITION. The named operations over the state: the accessors every read and write goes through, taking an
operation up (R136), ending it (R138), the abort, the rejection and the completion (R196, R194, R142), the end of the
automatic initialization (R123, R209) and reset (R220). -/

namespace Sys2Proof.Machine

/-! ### Accessors -/

/-- `R[DCR]`, `R[DMR]` (R13, R20). -/
def State.reg (s : State) : Reg → Byte
  | .dcr => s.dcr
  | .dmr => s.dmr

/-- `R[r] <- v` (R13). -/
def State.setReg (s : State) (r : Reg) (v : Byte) : State :=
  match r with
  | .dcr => { s with dcr := v }
  | .dmr => { s with dmr := v }

/-- `FRV <- v; FRM <- m` (R24). -/
def State.setFrame (s : State) (v : Byte) (m : Bool) : State := { s with frv := v, frm := m }

/-- `TMR <- n` (R25). -/
def State.setTmr (s : State) (n : Nat) : State := { s with tmr := n }

/-- `seq <- (k, j)` (R13, R26). -/
def State.setPos (s : State) (k : BitVec 8) (j : BitVec 4) : State := { s with seqStep := k, txSub := j }

/-- `CUR <- c` (R27). -/
def State.setCur (s : State) (c : Cur) : State := { s with cur := c }

/-- `CUR.valid <- 0` (R138). -/
def State.endCur (s : State) : State := { s with cur := { s.cur with valid := false } }

/-- `CUR.start <- i` (R136, R144). -/
def State.setStart (s : State) (i : Half) : State := { s with cur := { s.cur with start := i } }

/-- The step list to walk (R27). -/
def State.setSteps (s : State) (l : List MacroStep) : State := { s with steps := l }

/-- `ENG <- e` (R28). -/
def State.setEng (s : State) (e : Phase) : State := { s with eng := e }

/-- `LOCK <- l` (R29). -/
def State.setLock (s : State) (l : Option Nat) : State := { s with lock := l }

/-- `OE <- b` (R30). -/
def State.setOe (s : State) (b : Bool) : State := { s with oe := b }

/-- `PEND[p]`, none when the block has no port `p` (R31). -/
def State.pend (s : State) (p : Nat) : Option Pend := (s.ports[p]?).map Port.pend

/-- `PEND[p] <- x` (R31). -/
def State.setPend (s : State) (p : Nat) (x : Pend) : State :=
  { s with ports := s.ports.modify p fun q => { q with pend := x } }

/-- `TXT[p]`, empty when the block has no port `p` (R50). -/
def State.text (s : State) (p : Nat) : Memory :=
  match s.ports[p]? with
  | some q => q.txt
  | none => []

/-- Requester `p` writes one byte of its own buffer (R52). -/
def State.setText (s : State) (p : Nat) (i : Half) (b : Byte) : State :=
  { s with ports := s.ports.modify p fun q => { q with txt := Memory.write q.txt i.toNat b } }

/-- One level of the pin shadow (R32). -/
def Pins.get (x : Pins) : Pin → Bool
  | .d0 => x.d0
  | .d1 => x.d1
  | .d2 => x.d2
  | .d3 => x.d3
  | .rs => x.rs
  | .e => x.e

/-- One level of the pin shadow written (R32). -/
def Pins.set (x : Pins) (p : Pin) (b : Bool) : Pins :=
  match p with
  | .d0 => { x with d0 := b }
  | .d1 => { x with d1 := b }
  | .d2 => { x with d2 := b }
  | .d3 => { x with d3 := b }
  | .rs => { x with rs := b }
  | .e => { x with e := b }

/-- `PIN[p] <- b` (R55). -/
def State.setPin (s : State) (p : Pin) (b : Bool) : State := { s with pins := s.pins.set p b }

/-- `PW <- w` (R35). -/
def State.setPw (s : State) (w : Option (Pin × Bool)) : State := { s with pw := w }

/-- An event of this step (R14, R36). -/
def State.emit (s : State) (e : Event) : State := { s with out := s.out ++ [e] }

/-- The outputs of the last step are over (R36). -/
def State.clearOut (s : State) : State := { s with out := [] }

/-- The moves still to come. -/
def State.setSched (s : State) (l : List Move) : State := { s with sched := l }

/-- One more free value has been used (log 1). -/
def State.nextFree (s : State) : State := { s with free := s.free + 1 }

/-! ### Memory and registers as the operations reach them -/

/-- `MemRead(TXT[CUR.owner] + i, 1)` (R51, R146). The automatic initialization reads no text (R121). -/
def State.ownerByte (s : State) (i : Half) : Byte :=
  match s.cur.owner with
  | .port p => Memory.read (s.text p) i.toNat
  | .auto => Memory.blankByte

/-- `R[r] <- R[r] | mask` (R155). -/
def State.turnOn (s : State) (r : Reg) (mask : Byte) : State := s.setReg r (setBits (s.reg r) mask)

/-- `R[r] <- R[r] & ~mask` (R155). -/
def State.turnOff (s : State) (r : Reg) (mask : Byte) : State := s.setReg r (clearBits (s.reg r) mask)

/-! ### The life of an operation -/

/-- The part of `Grant(p)` that every operation shares (R136): lock, `CUR`, `PEND[p]` and the position. What the
operation adds (register update, `CUR.start`, step list) is its meaning, `exec`. -/
def State.takeUp (s : State) (p : Nat) (w : Word) : State :=
  ((((s.setLock (some p)).setCur
    { valid := true, owner := .port p, op := opField w, arg := argField w, start := s.cur.start }).setPend p
      .granted).setPos 0 0).emit (.granted p)

/-- Engine bookkeeping that ends with the operation: `CUR.valid <- 0; seq <- (0,0); TMR <- 0` (R138), and no step
list is left (log 7). -/
def State.putDown (s : State) : State := ((s.endCur.setPos 0 0).setTmr 0).setSteps []

/-- `End(p, status, info)` (R138), the same on success and on failure. -/
def State.endOp (s : State) (p : Nat) (status : Status) (info : BitVec 3) : State :=
  (((s.putDown).setLock none).setPend p (.finishing s.cur.op status info)).emit (.ended p status info)

/-- The end of the automatic initialization, successful or not (R123, R209): `CUR.valid <- 0; ENG <- OPEN`.
DEDUCED (log 11): the position and TMR go to 0 as at any other end. -/
def State.endBoot (s : State) (e : Event) : State := ((s.putDown).setEng .opened).emit e

/-- The end of the running operation's step list: `End(p, OK, 0)` of a port (R138), `READY` of the automatic
initialization (R209). -/
def State.finish (s : State) : State :=
  match s.cur.owner with
  | .port p => s.endOp p .ok 0
  | .auto => s.endBoot .ready

/-! ### Exceptions: the abort, the rejection, the completion (R190 to R198, R142) -/

/-- A pin write answered `err` (R196): `PW <- NONE; PIN[pin] <- unknown` (a free value, log 1), then `End(p, ERR_IO,
pin)`, or `BOOT_ERR(pin)` for the automatic initialization (R209). Registers, ENG, OE and the other pins stay
(R196, R198). -/
def State.abort (s : State) (pin : Pin) : State :=
  let t := (((s.setPw none).setPin pin (Config.failedPinLevel s.free)).nextFree).emit (.failed pin)
  match s.cur.owner with
  | .port p => t.endOp p .errIo (pinId pin)
  | .auto => t.endBoot (.bootErr (pinId pin))

/-- `reject(p, status)` of the posted word `w` (R194): nothing but `PEND[p]` changes. -/
def State.rejectPort (s : State) (p : Nat) (w : Word) (status : Status) : State :=
  (s.setPend p (.finishing (opField w) status 0)).emit (.rejected p status)

/-- `Complete(p)` (R142): the record is emitted and the port is idle again. -/
def State.completePort (s : State) (p : Nat) (op : Byte) (status : Status) (info : BitVec 3) : State :=
  (s.setPend p .idle).emit (.done p op status info)

/-! ### Reset -/

/-- The step in which `rst` is seen (R220, R38), with the configuration it samples (R8). The requesters keep their
text buffers, the parameters and the schedule stay (log 5, log 19). -/
def State.applyReset (s : State) (c : Cfg) : State :=
  { dcr := 0x0C
    dmr := 0x06
    frv := 0
    frm := false
    tmr := 0
    seqStep := 0
    txSub := 0
    cur := { valid := !c.suppressAutoInit, owner := .auto, op := 0x00, arg := 0, start := 0 }
    steps := if c.suppressAutoInit then [] else initSteps c
    eng := if c.suppressAutoInit then .opened else .boot
    lock := none
    oe := true
    ports := s.ports.map fun q => { q with pend := .idle }
    pins := Pins.low
    pw := none
    cfg := c
    tClkNs := s.tClkNs
    sched := s.sched
    out := [.resetSeen]
    free := s.free }

end Sys2Proof.Machine
end

