-- ==== Sys2Proof/Machine/Close.lean ====
section
/-! DEFINITION. CLOSE (45_close.md). -/

namespace Sys2Proof.Machine

/-- CLOSE (R185): `OE <- 0; ENG <- CLOSED`, no step to walk. -/
def execClose (s : State) : Host.Outcome State Fault Refusal :=
  .next (((s.setOe false).setEng .closed).setSteps [])

end Sys2Proof.Machine
end

