-- ==== Sys2Proof/Machine/CursorClearHome.lean ====
section
/-! DEFINITION. SETCURSOR, CLEAR and HOME (44_cursor_clear_home.md). -/

namespace Sys2Proof.Machine

/-- SETCURSOR (R175): one set-address byte, row clamped (R176), address modulo 256 (R177). -/
def execSetCursor (col row : Nat) (s : State) : Host.Outcome State Fault Refusal :=
  .next (s.setSteps (setCursorSteps s.cfg col row))

/-- CLEAR (R178): byte `0x01`, then `T_CLEAR`. -/
def execClear (s : State) : Host.Outcome State Fault Refusal := .next (s.setSteps clearSteps)

/-- HOME (R179): byte `0x02`, then `T_HOME`. -/
def execHome (s : State) : Host.Outcome State Fault Refusal := .next (s.setSteps homeSteps)

end Sys2Proof.Machine
end

