-- ==== Sys2Proof/Machine/DisplayState.lean ====
section
/-! DEFINITION. The display-state operations (43_display_state_ops.md). The ten set/clear operations force one bit of
their register at the grant and then send the whole register (R155); the two scrolls send a fixed code. -/

namespace Sys2Proof.Machine

/-- DISPLAY (R156): `R[DCR] <- R[DCR] | 0x04`. -/
def execDisplay (s : State) : Host.Outcome State Fault Refusal :=
  .next ((s.turnOn .dcr maskDisplay).setSteps sendDcr)

/-- NODISPLAY (R157): `R[DCR] <- R[DCR] & ~0x04`. -/
def execNoDisplay (s : State) : Host.Outcome State Fault Refusal :=
  .next ((s.turnOff .dcr maskDisplay).setSteps sendDcr)

/-- CURSOR (R158): `R[DCR] <- R[DCR] | 0x02`. -/
def execCursor (s : State) : Host.Outcome State Fault Refusal :=
  .next ((s.turnOn .dcr maskCursor).setSteps sendDcr)

/-- NOCURSOR (R159): `R[DCR] <- R[DCR] & ~0x02`. -/
def execNoCursor (s : State) : Host.Outcome State Fault Refusal :=
  .next ((s.turnOff .dcr maskCursor).setSteps sendDcr)

/-- BLINK (R160): `R[DCR] <- R[DCR] | 0x01`. -/
def execBlink (s : State) : Host.Outcome State Fault Refusal :=
  .next ((s.turnOn .dcr maskBlink).setSteps sendDcr)

/-- NOBLINK (R161): `R[DCR] <- R[DCR] & ~0x01`. -/
def execNoBlink (s : State) : Host.Outcome State Fault Refusal :=
  .next ((s.turnOff .dcr maskBlink).setSteps sendDcr)

/-- SCROLLLEFT (R162): the byte `0x18`; no register is read or written. -/
def execScrollLeft (s : State) : Host.Outcome State Fault Refusal := .next (s.setSteps scrollLeftSteps)

/-- SCROLLRIGHT (R163): the byte `0x1C`; no register is read or written. -/
def execScrollRight (s : State) : Host.Outcome State Fault Refusal := .next (s.setSteps scrollRightSteps)

/-- LEFTTORIGHT (R164): `R[DMR] <- R[DMR] | 0x02`. -/
def execLeftToRight (s : State) : Host.Outcome State Fault Refusal :=
  .next ((s.turnOn .dmr maskLeftToRight).setSteps sendDmr)

/-- RIGHTTOLEFT (R165): `R[DMR] <- R[DMR] & ~0x02`. -/
def execRightToLeft (s : State) : Host.Outcome State Fault Refusal :=
  .next ((s.turnOff .dmr maskLeftToRight).setSteps sendDmr)

/-- AUTOSCROLL (R166): `R[DMR] <- R[DMR] | 0x01`. -/
def execAutoscroll (s : State) : Host.Outcome State Fault Refusal :=
  .next ((s.turnOn .dmr maskAutoscroll).setSteps sendDmr)

/-- NOAUTOSCROLL (R167): `R[DMR] <- R[DMR] & ~0x01`. -/
def execNoAutoscroll (s : State) : Host.Outcome State Fault Refusal :=
  .next ((s.turnOff .dmr maskAutoscroll).setSteps sendDmr)

end Sys2Proof.Machine
end

