-- ==== Sys2Proof/Machine/Init.lean ====
section
/-! DEFINITION. INIT (41_init_sequencer.md). A meaning is the operation's own part of the grant step (R136): its
register update, `CUR.start` and the step list the sequencer then walks. -/

namespace Sys2Proof.Machine

/-- INIT (R120, R121): its 14 macro steps; the registers are read, not written (R124). -/
def execInit (s : State) : Host.Outcome State Fault Refusal := .next (s.setSteps (initSteps s.cfg))

end Sys2Proof.Machine
end

