-- ==== Sys2Proof/Machine/Print.lean ====
section
/-! DEFINITION. PRINT (42_serializer_print.md). -/

namespace Sys2Proof.Machine

/-- PRINT (R143, R144): `CUR.start` is the start index, and one `Char` per character from there follows. -/
def execPrint (len : Nat) (s : State) : Host.Outcome State Fault Refusal :=
  .next ((s.setStart (BitVec.ofNat 16 (startIndex len))).setSteps (printSteps len))

end Sys2Proof.Machine
end

