-- ==== Sys2Proof/Machine/Dispatch.lean ====
section
/-! DEFINITION. One arm per operation: its meaning. -/

namespace Sys2Proof.Machine

def exec (i : Instr) (s : State) : Host.Outcome State Fault Refusal :=
  match i with
  | .init => Sys2Proof.Machine.execInit s
  | .print len => Sys2Proof.Machine.execPrint len s
  | .clear => Sys2Proof.Machine.execClear s
  | .home => Sys2Proof.Machine.execHome s
  | .setCursor col row => Sys2Proof.Machine.execSetCursor col row s
  | .display => Sys2Proof.Machine.execDisplay s
  | .noDisplay => Sys2Proof.Machine.execNoDisplay s
  | .cursor => Sys2Proof.Machine.execCursor s
  | .noCursor => Sys2Proof.Machine.execNoCursor s
  | .blink => Sys2Proof.Machine.execBlink s
  | .noBlink => Sys2Proof.Machine.execNoBlink s
  | .scrollLeft => Sys2Proof.Machine.execScrollLeft s
  | .scrollRight => Sys2Proof.Machine.execScrollRight s
  | .leftToRight => Sys2Proof.Machine.execLeftToRight s
  | .rightToLeft => Sys2Proof.Machine.execRightToLeft s
  | .autoscroll => Sys2Proof.Machine.execAutoscroll s
  | .noAutoscroll => Sys2Proof.Machine.execNoAutoscroll s
  | .close => Sys2Proof.Machine.execClose s

end Sys2Proof.Machine
end

