-- ==== Sys2Proof/Machine/Transmitter.lean ====
section
/-! DEFINITION. The nibble transmitter and the sequencer's walk: substeps (R101, R102), the frame load (R24, R146),
the advance of the position (R26), the waits (R104, R241), the issue and the answer of a pin write (R55, R103). -/

namespace Sys2Proof.Machine

/-- `Nib(n)`, substeps 0 to 6 (R101). -/
def nibSubsteps (n : Nibble) : List Substep :=
  [ .write .e true,
    .write .d0 (n.getLsbD 0),
    .write .d1 (n.getLsbD 1),
    .write .d2 (n.getLsbD 2),
    .write .d3 (n.getLsbD 3),
    .write .e false,
    .wait tEn ]

/-- The high nibble `v >> 4` (R102, R105). -/
def highNibble (v : Byte) : Nibble := v.extractLsb' 4 4
/-- The low nibble `v & 0xF` (R102, R105). -/
def lowNibble (v : Byte) : Nibble := v.extractLsb' 0 4

/-- `Byte(v, m)`, substeps 0 to 15 (R102): RS, the high nibble, the low nibble, the settle wait. -/
def byteSubsteps (v : Byte) (m : Bool) : List Substep :=
  .write .rs m :: (nibSubsteps (highNibble v) ++ nibSubsteps (lowNibble v) ++ [.wait (if m then tChr else tCmd)])

/-- The substeps of a macro step, read from the frame registers (R24, R101, R102, R104, R146). -/
def substepsOf (st : MacroStep) (frv : Byte) (frm : Bool) : List Substep :=
  match st with
  | .wait us => [.wait us]
  | .nib _ => nibSubsteps (lowNibble frv)
  | .byte _ _ | .reg _ | .char _ => byteSubsteps frv frm

/-- The number of substeps of a macro step (R106). -/
def substepCount : MacroStep → Nat
  | .wait _ => 1
  | .nib _ => 7
  | .byte _ _ | .reg _ | .char _ => 16

/-- The macro step the position points at (R26). -/
def State.currentStep (s : State) : Option MacroStep := s.steps[s.seqStep.toNat]?

/-- What happens when a macro step starts (R24, R101, R102, R146): the frame registers are loaded; `Char` reads its
text byte. -/
def State.startStep (s : State) (st : MacroStep) : State :=
  match st with
  | .wait _ => s
  | .nib n => s.setFrame (highNibble s.frv ++ n) s.frm
  | .byte v m => s.setFrame v m
  | .reg r => s.setFrame (s.reg r) false
  | .char i => (s.setFrame (s.ownerByte i) true).emit (.textRead i (s.ownerByte i))

/-- A substep has completed: the position advances (R26). -/
def State.advance (s : State) : State :=
  match s.currentStep with
  | some st =>
    if s.txSub.toNat + 1 < substepCount st then s.setPos s.seqStep (s.txSub + 1) else s.setPos (s.seqStep + 1) 0
  | none => s

/-- The issue of a pin write (R55, R103). -/
def State.issue (s : State) (pin : Pin) (b : Bool) : State := (s.setPw (some (pin, b))).emit (.issued pin b)

/-- One step of a wait (R104, R241): TMR is loaded, or one clock period passes; the wait ends, and the position
advances, when TMR reaches 0 (log 10). -/
def State.waitStep (s : State) (us : Nat) : State :=
  match s.tmr with
  | 0 => (s.setTmr (timerLoad us s.tClkNs)).emit (.waitBegun us)
  | 1 => ((s.setTmr 0).advance).emit (.waitEnded us)
  | n + 2 => s.setTmr (n + 1)

/-- One step of the sequencer and transmitter while an operation runs and no pin write is in flight (R26, R35, R103,
R138). The position past the last macro step ends the operation. -/
def State.engineStep (s : State) : Host.Outcome State Fault Refusal :=
  match s.currentStep with
  | none => .next s.finish
  | some st =>
    let t := if s.txSub = 0 then s.startStep st else s
    match (substepsOf st t.frv t.frm)[s.txSub.toNat]? with
    | none => .fault .lostPosition
    | some (.write pin b) => if s.tmr = 0 then .next (t.issue pin b) else .fault .lostPosition
    | some (.wait us) => .next (t.waitStep us)

/-- `ack` (R55): `PIN[pin] <- b; PW <- NONE`, and the position advances (R103). -/
def State.ackWrite (s : State) (pin : Pin) (b : Bool) : State :=
  (((s.setPin pin b).setPw none).advance).emit (.acked pin b)

/-- The Pin Set's answer (R55): `err`, alone or with `ack`, aborts; `ack` alone lets the operation go on; no signal
is no answer; without a write in flight there is nothing to answer and nothing changes (R199, log 12). -/
def State.pinAnswer (s : State) (ack err : Bool) : State :=
  match s.pw with
  | none => s
  | some (pin, b) => if err then s.abort pin else if ack then s.ackWrite pin b else s

/-- The late answer to a write that a reset abandoned is ignored, whatever it is and whatever write is in flight now
(R224). -/
def State.lateAnswer (s : State) (_ack _err : Bool) : State := s

end Sys2Proof.Machine
end

