-- ==== Sys2Proof/Machine/Arbiter.lean ====
section
/-! DEFINITION. The command serializer (R135 to R142), the rejections (R191, R192) and what each agent's move does
(R7). A move that is not enabled changes nothing (log 12). -/

namespace Sys2Proof.Machine

/-- The engine takes no other operation: `ENG = OPEN; CUR.valid = 0; LOCK = NONE` (R137). -/
def State.engineFree (s : State) : Bool :=
  decide (s.eng = .opened) && !s.cur.valid && decide (s.lock = none)

/-- Port `p` is eligible (R137). -/
def State.eligible (s : State) (p : Nat) : Bool :=
  match s.pend p with
  | some (.posted w) => s.engineFree && legalOp (opField w)
  | _ => false

/-- The status a posted word is rejected with, if it is: `ERR_PROGRAMMING` for an illegal opcode in every phase
(R191, R197a), `ERR_CLOSED` for a legal one while `ENG = CLOSED` (R192). -/
def State.rejection (s : State) (w : Word) : Option Status :=
  if legalOp (opField w) then (if s.eng = .closed then some .errClosed else none) else some .errProgramming

/-- `Grant(p)` (R136): the word is read here and not again (R64); the operation's meaning is run. -/
def State.grantMove (s : State) (p : Nat) : Host.Outcome State Fault Refusal :=
  match s.pend p with
  | some (.posted w) =>
    if s.engineFree then
      match decode w with
      | .request i => exec i (s.takeUp p w)
      | .illegalOpcode _ => .next s
    else .next s
  | _ => .next s

/-- The rejection step of port `p` (R194). -/
def State.rejectMove (s : State) (p : Nat) : State :=
  match s.pend p with
  | some (.posted w) =>
    match s.rejection w with
    | some status => s.rejectPort p w status
    | none => s
  | _ => s

/-- The completion step of port `p` (R142). -/
def State.completeMove (s : State) (p : Nat) : State :=
  match s.pend p with
  | some (.finishing op status info) => s.completePort p op status info
  | _ => s

/-- `Post(p, W)` (R141). -/
def State.postMove (s : State) (p : Nat) (w : Word) : State :=
  match s.pend p with
  | some .idle => s.setPend p (.posted w)
  | _ => s

/-- A word changed before the grant is the one read at the grant; after it the change has no effect (R64). -/
def State.changeMove (s : State) (p : Nat) (w : Word) : State :=
  match s.pend p with
  | some (.posted _) => s.setPend p (.posted w)
  | _ => s

/-- A request withdrawn before its completion record is refused (U5, R227; log 13). -/
def State.withdrawMove (s : State) (p : Nat) : Host.Outcome State Fault Refusal :=
  match s.pend p with
  | some (.posted _) | some .granted | some (.finishing _ _ _) => .refused (.requestWithdrawn p)
  | some .idle | none => .next s

/-- The engine's move: one step of the running operation, unless a pin write is in flight (R35, R103). -/
def State.engineMove (s : State) : Host.Outcome State Fault Refusal :=
  if s.cur.valid && s.pw.isNone then s.engineStep else .next s

/-- Reset, refused for a configuration that is none (R8, U11; log 14). -/
def State.resetMove (s : State) (c : Cfg) : Host.Outcome State Fault Refusal :=
  if c.wf then .next (s.applyReset c) else .refused .badConfiguration

/-- What one move does. -/
def State.perform (s : State) (m : Move) : Host.Outcome State Fault Refusal :=
  match m with
  | .reset c => s.resetMove c
  | .post p w => .next (s.postMove p w)
  | .changeWord p w => .next (s.changeMove p w)
  | .withdraw p => s.withdrawMove p
  | .writeText p i b => .next (s.setText p i b)
  | .pinAnswer ack err => .next (s.pinAnswer ack err)
  | .lateAnswer ack err => .next (s.lateAnswer ack err)
  | .engine => s.engineMove
  | .grant p => s.grantMove p
  | .reject p => .next (s.rejectMove p)
  | .complete p => .next (s.completeMove p)
  | .idle => .next s

/-- The enabled steps of the block itself that concern port `p` (R136, R142, R194). -/
def State.portMoves (s : State) (p : Nat) : List Move :=
  match s.pend p with
  | some (.posted w) =>
    match s.rejection w with
    | some _ => [.reject p]
    | none => if s.eligible p then [.grant p] else []
  | some (.finishing _ _ _) => [.complete p]
  | some .idle | some .granted | none => []

/-- The enabled steps of the block itself: the engine's, then each port's. What the outside does (requesters, Pin
Set, reset) is not among them. -/
def State.ownMoves (s : State) : List Move :=
  (if s.cur.valid && s.pw.isNone then [.engine] else []) ++ (List.range s.ports.length).flatMap s.portMoves

/-- The move that happens when the schedule says nothing (log 2, log 3): the outside is silent; the block's one
enabled step, or a freely chosen one of several; when none is enabled nothing changes (R57). -/
def State.ownMove (s : State) : Move × State :=
  match s.ownMoves with
  | [] => (.idle, s)
  | [m] => (m, s)
  | m :: ms => (((m :: ms)[Config.agentChoice s.free % (ms.length + 1)]?).getD m, s.nextFree)

/-- The next move and the state it meets: the head of the schedule, else a step of the block itself. -/
def State.nextMove (s : State) : Move × State :=
  match s.sched with
  | m :: rest => (m, s.setSched rest)
  | [] => s.ownMove

/-- Port 0 holds the posted word `w` of an idle open engine, whose grant is the next move (log 19). -/
def State.placeRequest (s : State) (w : Word) : State :=
  { s with
    cur := { s.cur with valid := false }
    steps := []
    seqStep := 0
    txSub := 0
    tmr := 0
    pw := none
    lock := none
    eng := .opened
    oe := true
    ports := { pend := .posted w, txt := s.text 0 } ::
      (s.ports.drop 1).map fun q => if q.pend = .granted then { q with pend := .idle } else q
    sched := .grant 0 :: s.sched }

end Sys2Proof.Machine
end

