-- ==== Sys2Proof/Machine/Step.lean ====
section
/-! DEFINITION. One step of the machine: the outputs of the last step end (R36) and one agent moves (R7, R14). -/

namespace Sys2Proof.Machine

/-- One step (R14). -/
def step (s : State) : Host.Outcome State Fault Refusal :=
  let (m, t) := s.clearOut.nextMove
  t.perform m

/-- `s` with the request word `w` about to be granted (log 19, log 20). -/
def State.withFetchWord (s : State) (nbits w : Nat) : State :=
  s.placeRequest (BitVec.ofNat 24 (w % 2 ^ nbits))

end Sys2Proof.Machine
end

