-- ==== Sys2Proof/Machine/Flags.lean ====
section
/-! DEFINITION. The outputs of the block as functions of the state: the status outputs (R34), the pin-write port
(R55, R89), the text index (D9), the completion outputs (R36, R82, R209) and the named notifications (R84). -/

namespace Sys2Proof.Machine

/-- The encoding of `ENG` on `eng_q[1:0]` (R28). -/
def phaseCode : Phase → BitVec 2
  | .boot => 0
  | .opened => 1
  | .closed => 2

/-- `busy_q` (R34). -/
def State.busyQ (s : State) : Bool := s.cur.valid
/-- `lock_q` (R34). -/
def State.lockQ (s : State) : Bool := s.lock.isSome
/-- `closed_q` (R34). -/
def State.closedQ (s : State) : Bool := decide (s.eng = .closed)
/-- `eng_q[1:0]` (R34). -/
def State.engQ (s : State) : BitVec 2 := phaseCode s.eng
/-- `dcr_q[7:0]` (R34). -/
def State.dcrQ (s : State) : Byte := s.dcr
/-- `dmr_q[7:0]` (R34). -/
def State.dmrQ (s : State) : Byte := s.dmr
/-- `oe_q` (R34). -/
def State.oeQ (s : State) : Bool := s.oe

/-- `pw_valid` (R55). -/
def State.pwValid (s : State) : Bool := s.pw.isSome
/-- `pw_pin[2:0]` and `pw_val` while a write is in flight (R55, R89). -/
def State.pwPort (s : State) : Option (BitVec 3 × Bool) := s.pw.map fun w => (pinId w.1, w.2)

/-- `txt_idx[15:0]`: the index the current macro step reads, when it is a `Char` (R146, D9). -/
def State.txtIdx (s : State) : Option Half :=
  match s.steps[s.seqStep.toNat]? with
  | some (.char i) => some i
  | _ => none

/-- `done_valid[p]`, `done_status[p]`, `done_info[p]` in this step (R36, R82). -/
def State.doneOut (s : State) (p : Nat) : Option (BitVec 2 × BitVec 3) :=
  s.out.findSome? fun e =>
    match e with
    | .done q _ status info => if q = p then some (statusCode status, info) else none
    | _ => none

/-- `ready` in this step (R209). -/
def State.readyOut (s : State) : Bool := s.out.contains .ready

/-- `boot_err` and `boot_err_pin[2:0]` in this step (R209). -/
def State.bootErrOut (s : State) : Option (BitVec 3) :=
  s.out.findSome? fun e =>
    match e with
    | .bootErr pin => some pin
    | _ => none

/-- The named notifications of the adapter (R84). -/
inductive Notification where
  | ready | printed | clear | home | error
  deriving DecidableEq, Repr

/-- The notification a completion record stands for, if it has one (R84). -/
def notificationOf (op : Byte) (status : Status) : Option Notification :=
  match status with
  | .ok =>
    if op = 0x00 then some .ready
    else if op = 0x01 then some .printed
    else if op = 0x02 then some .clear
    else if op = 0x03 then some .home
    else none
  | .errProgramming | .errIo | .errClosed => some .error

end Sys2Proof.Machine
end

