-- ==== Sys2Proof/Safety.lean ====
section
/-! DEFINITION. The terms claims are stated in: the invariant of the engine, runs and their traces (R14), what a
completed operation puts on the bus (R101, R102, R143), what a receiver latches (R85), and counts (R243). -/

namespace Sys2Proof.Machine

/-! ### The invariant -/

/-- The identifier bits of DCR and DMR: `DCR[7:3] = 00001`, `DMR[7:2] = 000001` (R21, R22). -/
def State.RegsLegal (s : State) : Prop := s.dcr.extractLsb' 3 5 = 1 ∧ s.dmr.extractLsb' 2 6 = 1

/-- Every text buffer is in canonical form (R50). -/
def State.TextsWf (s : State) : Prop := ∀ q ∈ s.ports, Memory.wf q.txt = true

/-- The configuration and the parameters are legal (R8, R9). -/
def State.ParamsLegal (s : State) : Prop := s.cfg.wf = true ∧ 1 ≤ s.tClkNs ∧ s.ports ≠ []

/-- The lock, the owner, the granted port and the phase BOOT say the same thing (R28, R29, R31). -/
structure State.LockConsistent (s : State) : Prop where
  lock_owner : ∀ p, s.lock = some p ↔ s.cur.valid = true ∧ s.cur.owner = .port p
  granted_lock : ∀ p, s.pend p = some .granted ↔ s.lock = some p
  boot_auto : s.eng = .boot ↔ s.cur.valid = true ∧ s.cur.owner = .auto

/-- The pins are released exactly while the engine is closed (R30, R185). -/
def State.PinsOwned (s : State) : Prop := s.oe = false ↔ s.eng = .closed

/-- The substep the position points at, by the frame registers (R26). -/
def State.currentSubstep (s : State) : Option Substep :=
  s.currentStep.bind fun st => (substepsOf st s.frv s.frm)[s.txSub.toNat]?

/-- `CUR` names an operation, and the step list being walked is that operation's (R27). -/
def State.CurNamesSteps (s : State) : Prop :=
  s.cur.valid = true → ∃ i, decodeFields s.cur.op s.cur.arg = .request i ∧ s.steps = stepListOf s.cfg i ∧
    (s.eng = .closed ↔ i = .close) ∧ (s.cur.owner = .auto → i = .init) ∧
    ∀ len, i = .print len → s.cur.start = BitVec.ofNat 16 (startIndex len)

/-- The position names a substep of the list, or is just past the list (R26, R106). -/
def State.PositionLegal (s : State) : Prop :=
  s.cur.valid = true →
    match s.currentStep with
    | none => s.seqStep.toNat = s.steps.length ∧ s.txSub = 0
    | some st => s.txSub.toNat < substepCount st

/-- The frame registers hold what the macro step loaded (R24); a character's value is free to differ from the buffer
that it was read from (R52). -/
def State.frameHolds (s : State) : MacroStep → Prop
  | .wait _ => True
  | .nib n => lowNibble s.frv = n
  | .byte v m => s.frv = v ∧ s.frm = m
  | .reg r => s.frv = s.reg r ∧ s.frm = false
  | .char _ => s.frm = true

/-- A macro step that has started has loaded the frame registers (R24). -/
def State.FrameLoaded (s : State) : Prop :=
  s.cur.valid = true → ∀ st, s.currentStep = some st → (s.txSub ≠ 0 ∨ s.pw ≠ none) → s.frameHolds st

/-- A pin write in flight is the one the position points at, of a running operation, and no wait is in progress
(R35, R103). -/
def State.WriteOfPosition (s : State) : Prop :=
  ∀ pin b, s.pw = some (pin, b) → s.cur.valid = true ∧ s.tmr = 0 ∧ s.currentSubstep = some (.write pin b)

/-- TMR runs only during the wait the position points at, and never above what that wait loads (R25, R241). -/
def State.TimerOfPosition (s : State) : Prop :=
  s.tmr ≠ 0 → s.cur.valid = true ∧ ∃ us, s.currentSubstep = some (.wait us) ∧ s.tmr ≤ timerLoad us s.tClkNs

/-- Between operations nothing is in progress (R38, R138). -/
def State.IdleClean (s : State) : Prop :=
  s.cur.valid = false → s.pw = none ∧ s.tmr = 0 ∧ s.seqStep = 0 ∧ s.txSub = 0 ∧ s.steps = []

/-- The invariant of the engine. -/
structure State.Inv (s : State) : Prop where
  regs : s.RegsLegal
  texts : s.TextsWf
  params : s.ParamsLegal
  lock : s.LockConsistent
  pins : s.PinsOwned
  cur : s.CurNamesSteps
  position : s.PositionLegal
  frame : s.FrameLoaded
  write : s.WriteOfPosition
  timer : s.TimerOfPosition
  idle : s.IdleClean

/-- The next step sees no reset (R220). -/
def State.noReset (s : State) : Prop := ∀ c, s.sched.head? ≠ some (.reset c)

/-! ### Runs and traces -/

/-- `n` steps and the events they emit, in order (R14); none if the machine stops before. -/
def runTrace : Nat → State → Option (List Event × State)
  | 0, s => some ([], s)
  | n + 1, s =>
    match step s with
    | .next t => (runTrace n t).map fun r => (t.out ++ r.1, r.2)
    | .fault _ => none
    | .refused _ => none

/-- A pin write that is acknowledged (R55). -/
def writeEvents (pin : Pin) (b : Bool) : List Event := [.issued pin b, .acked pin b]

/-- A wait, from its start to its end (R104). -/
def waitEvents (us : Nat) : List Event := [.waitBegun us, .waitEnded us]

/-- The events of `Nib(n)` when every write is acknowledged, written out from R101. -/
def nibEvents (n : Nibble) : List Event :=
  writeEvents .e true ++ writeEvents .d0 (n.getLsbD 0) ++ writeEvents .d1 (n.getLsbD 1) ++
    writeEvents .d2 (n.getLsbD 2) ++ writeEvents .d3 (n.getLsbD 3) ++ writeEvents .e false ++ waitEvents 1

/-- The events of `Byte(v, m)` when every write is acknowledged, written out from R102. -/
def byteEvents (v : Byte) (m : Bool) : List Event :=
  writeEvents .rs m ++ nibEvents (v.extractLsb' 4 4) ++ nibEvents (v.extractLsb' 0 4) ++
    waitEvents (if m then 43 else 39)

/-- The events of a macro step of port `p`'s operation when every write is acknowledged and the text stays as it is
(R101, R102, R104, R146). -/
def State.stepEvents (s : State) (p : Nat) : MacroStep → List Event
  | .wait us => waitEvents us
  | .nib n => nibEvents n
  | .byte v m => byteEvents v m
  | .reg r => byteEvents (s.reg r) false
  | .char i => .textRead i (Memory.read (s.text p) i.toNat) :: byteEvents (Memory.read (s.text p) i.toNat) true

/-- The mode a macro step transmits in (R102, R146). -/
def stepMode : MacroStep → Bool
  | .byte _ m => m
  | .char _ => true
  | .wait _ | .nib _ | .reg _ => false

/-- The moves one substep takes when the Pin Set acknowledges every write: issue and answer of a write; the start of a
wait and its clock periods (R103, R104, R241). -/
def substepMoves (tClkNs : Nat) : Substep → List Move
  | .write _ _ => [.engine, .pinAnswer true false]
  | .wait us => .engine :: List.replicate (timerLoad us tClkNs) .engine

/-- The substeps of a macro step as far as their kinds and waits go, which do not depend on the value sent. -/
def substepShape (st : MacroStep) : List Substep := substepsOf st 0 (stepMode st)

/-- The moves a step list takes when the Pin Set acknowledges every write. -/
def ackMoves (tClkNs : Nat) (l : List MacroStep) : List Move :=
  l.flatMap fun st => (substepShape st).flatMap (substepMoves tClkNs)

/-- The value DCR or DMR has after the operation's grant: the register update of R155 to R167. -/
def regAfter (i : Instr) (r : Reg) (v : Byte) : Byte :=
  match i, r with
  | .display, .dcr => v ||| 0x04
  | .noDisplay, .dcr => v &&& 0xFB
  | .cursor, .dcr => v ||| 0x02
  | .noCursor, .dcr => v &&& 0xFD
  | .blink, .dcr => v ||| 0x01
  | .noBlink, .dcr => v &&& 0xFE
  | .leftToRight, .dmr => v ||| 0x02
  | .rightToLeft, .dmr => v &&& 0xFD
  | .autoscroll, .dmr => v ||| 0x01
  | .noAutoscroll, .dmr => v &&& 0xFE
  | _, _ => v

/-! ### What a receiver sees, and counts -/

/-- What a receiver that watches the pins latches: RS and the data levels at each acknowledged write of E low (R85). -/
def latched : Pins → List Event → List (Bool × Nibble)
  | _, [] => []
  | x, .acked pin b :: es =>
    let y := x.set pin b
    if pin = .e ∧ b = false then
      (y.rs, BitVec.ofBool y.d3 ++ BitVec.ofBool y.d2 ++ BitVec.ofBool y.d1 ++ BitVec.ofBool y.d0) :: latched y es
    else latched y es
  | x, _ :: es => latched x es

/-- The framing of R107 over a list of substeps: outside a pulse only `RS` writes, waits and `E<-1`; inside, exactly
the four data writes in some order of pins D0 to D3 as issued here, then `E<-0`. The number is how many data writes
the pulse has had; `none` is outside a pulse. -/
def framed : Option Nat → List Substep → Bool
  | none, [] => true
  | some _, [] => false
  | none, .wait _ :: l => framed none l
  | none, .write .rs _ :: l => framed none l
  | none, .write .e true :: l => framed (some 0) l
  | some 0, .write .d0 _ :: l => framed (some 1) l
  | some 1, .write .d1 _ :: l => framed (some 2) l
  | some 2, .write .d2 _ :: l => framed (some 3) l
  | some 3, .write .d3 _ :: l => framed (some 4) l
  | some 4, .write .e false :: l => framed none l
  | _, _ :: _ => false

/-- Is a substep a pin write? -/
def isWrite : Substep → Bool
  | .write _ _ => true
  | .wait _ => false

/-- The microseconds a substep waits. -/
def waitOf : Substep → Nat
  | .write _ _ => 0
  | .wait us => us

/-- Pin writes of a step list (R243). -/
def pinWrites (l : List MacroStep) : Nat := ((l.flatMap substepShape).filter isWrite).length

/-- The sum of the waits of a step list in microseconds: its minimum duration (R243). -/
def minDuration (l : List MacroStep) : Nat := ((l.flatMap substepShape).map waitOf).sum

/-! ### Two runs compared -/

/-- The same state with another `COLUMNS` input (R8). -/
def State.withColumns (s : State) (c : Byte) : State := { s with cfg := { s.cfg with columns := c } }

/-- An outcome with its next state changed. -/
def mapNext (f : State → State) : Host.Outcome State Fault Refusal → Host.Outcome State Fault Refusal
  | .next s => .next (f s)
  | .fault r => .fault r
  | .refused r => .refused r

end Sys2Proof.Machine
end

