-- ==== Sys2Proof/Certificates/Slice0/Obligations.lean ====
section
/-! DEFINITION. The statements about the model, for the provers. Each docstring names the rule of spec/ it
formalises; where a clause rests on a choice of the model or on a value the spec marks as not its source's, it says so. -/

open Sys2Proof Sys2Proof.Machine

/-! ### The request word -/

/-- R80: the example words, written out, decode to the operations they stand for and are what the encoder emits. -/
def Obligations.ExampleWordsDecode : Prop :=
  decode 0x000000 = .request .init ∧ decode 0x010002 = .request (.print 2) ∧ decode 0x020000 = .request .clear ∧
  decode 0x040105 = .request (.setCursor 5 1) ∧ decode 0x040507 = .request (.setCursor 7 5) ∧
  decode 0x070000 = .request .cursor ∧ decode 0x110000 = .request .close ∧
  decode 0x120000 = .illegalOpcode 0x12 ∧ decode 0xFF0000 = .illegalOpcode 0xFF ∧
  encode (.setCursor 5 1) = 0x040105 ∧ encode (.setCursor 7 5) = 0x040507 ∧ encode (.print 2) = 0x010002

/-- R70 to R74: no bit of an operation or of its arguments is lost by the encoder and the decoder. -/
def Obligations.DecodeOfEncode : Prop :=
  ∀ i : Instr, i.wf = true → decode (encode i) = .request i

/-- R71, R72, R79: what a word decodes to is well formed, has the word's opcode, and encodes to the word itself where
the format has an argument, and to the word with zero argument bits where it has none. -/
def Obligations.EncodeOfDecode : Prop :=
  ∀ (w : Word) (i : Instr), decode w = .request i →
    i.wf = true ∧ opcode i = opField w ∧
    (opField w = 0x01 ∨ opField w = 0x04 → encode i = w) ∧
    (opField w ≠ 0x01 → opField w ≠ 0x04 → encode i = opField w ++ (0 : Half))

/-- R72, R76, R77: the eight opcode bits alone decide; `0x00 .. 0x11` name an operation and `0x12 .. 0xFF` none. -/
def Obligations.OpcodeDecides : Prop :=
  ∀ w : Word, ((opField w).toNat ≤ 0x11 → ∃ i, decode w = .request i ∧ opcode i = opField w) ∧
    (0x12 ≤ (opField w).toNat → decode w = .illegalOpcode (opField w))

/-- R75: in format N any argument bits give the same operation, and the assembler emits zeros there. -/
def Obligations.ArgumentBitsIgnored : Prop :=
  (∀ (op : Byte) (a b : Half), op ≠ 0x01 → op ≠ 0x04 → decode (op ++ a) = decode (op ++ b)) ∧
  (∀ i : Instr, opcode i ≠ 0x01 → opcode i ≠ 0x04 → argument i = 0)

/-! ### What each operation does at its grant -/

/-- R156 to R159: DISPLAY, NODISPLAY, CURSOR and NOCURSOR force their bit of DCR, then send DCR; nothing else of the
state changes. -/
def Obligations.DisplayAndCursorOperations : Prop :=
  (opcode .display = 0x05 ∧ opcode .noDisplay = 0x06 ∧ opcode .cursor = 0x07 ∧ opcode .noCursor = 0x08) ∧
  ∀ s : State,
    exec .display s = .next { s with dcr := s.dcr ||| 0x04, steps := [.reg .dcr] } ∧
    exec .noDisplay s = .next { s with dcr := s.dcr &&& 0xFB, steps := [.reg .dcr] } ∧
    exec .cursor s = .next { s with dcr := s.dcr ||| 0x02, steps := [.reg .dcr] } ∧
    exec .noCursor s = .next { s with dcr := s.dcr &&& 0xFD, steps := [.reg .dcr] }

/-- R160, R161, R164 to R167. The masks are values the spec marks as general knowledge (its G1, G2; log 15): the
model follows the spec's adoption of them. Nothing else of the state changes. -/
def Obligations.BlinkAndModeOperations : Prop :=
  ∀ s : State,
    exec .blink s = .next { s with dcr := s.dcr ||| 0x01, steps := [.reg .dcr] } ∧
    exec .noBlink s = .next { s with dcr := s.dcr &&& 0xFE, steps := [.reg .dcr] } ∧
    exec .leftToRight s = .next { s with dmr := s.dmr ||| 0x02, steps := [.reg .dmr] } ∧
    exec .rightToLeft s = .next { s with dmr := s.dmr &&& 0xFD, steps := [.reg .dmr] } ∧
    exec .autoscroll s = .next { s with dmr := s.dmr ||| 0x01, steps := [.reg .dmr] } ∧
    exec .noAutoscroll s = .next { s with dmr := s.dmr &&& 0xFE, steps := [.reg .dmr] }

/-- R162, R163, R178, R179: SCROLLLEFT, SCROLLRIGHT, CLEAR and HOME send one fixed byte (the last two then wait 3 ms)
and change no register. The codes `0x18`, `0x1C` and `0x02` are values the spec marks as general knowledge (G4, G5;
log 15), and `T_HOME` is its decision D23 (log 16). -/
def Obligations.FixedByteOperations : Prop :=
  ∀ s : State,
    exec .scrollLeft s = .next { s with steps := [.byte 0x18 false] } ∧
    exec .scrollRight s = .next { s with steps := [.byte 0x1C false] } ∧
    exec .clear s = .next { s with steps := [.byte 0x01 false, .wait 3000] } ∧
    exec .home s = .next { s with steps := [.byte 0x02 false, .wait 3000] }

/-- R175 to R177: SETCURSOR sends `0x80 | ((col + ROW_OFFSET[r]) mod 256)` with the row clamped to `ROWS - 1`; bit 7
is always 1; `col = 200, r = 0` sends `0xC8` and `col = 0xAC, r = 3` sends `0x80`; nothing else changes. -/
def Obligations.SetCursorSendsAddress : Prop :=
  ∀ (s : State) (col row r : Nat) (offset : Byte), s.cfg.wf = true →
    r = (if s.cfg.rows ≤ row then s.cfg.rows - 1 else row) →
    ([0x00, 0x40, 0x14, 0x54] : List Byte)[r]? = some offset →
    exec (.setCursor col row) s =
      .next { s with steps := [.byte (0x80 ||| BitVec.ofNat 8 ((col + offset.toNat) % 256)) false] } ∧
    r < s.cfg.rows ∧ (cursorByte s.cfg col row).getLsbD 7 = true ∧
    (r = 0 → cursorByte s.cfg 200 row = 0xC8) ∧ (r = 3 → cursorByte s.cfg 0xAC row = 0x80)

/-- R143, R144: PRINT sets `CUR.start` to the start index and walks one `Char` per index from it up to `len - 1`, in
ascending order; nothing else changes. -/
def Obligations.PrintWalksFromStartIndex : Prop :=
  ∀ (s : State) (len start : Nat), len < 65536 →
    start = (if 1 < len / 80 then (len / 80 - 1) * 80 else 0) →
    ∃ l : List MacroStep,
      exec (.print len) s = .next { s with cur := { s.cur with start := BitVec.ofNat 16 start }, steps := l } ∧
      l.length = len - start ∧ ∀ k, k < len - start → l[k]? = some (.char (BitVec.ofNat 16 (start + k)))

/-- R120, R121, R122, R124: INIT walks the 14 macro steps of R121 with the function-set byte of R122, and neither
writes a register nor changes ENG or OE. The option bits `0x08` and `0x04` are values the spec marks as general
knowledge (G3; log 15). -/
def Obligations.InitWalksFourteenSteps : Prop :=
  ∀ s : State, ∃ fs : Byte,
    exec .init s = .next { s with steps :=
      [.wait 15000, .nib 0x3, .wait 4100, .nib 0x3, .wait 160, .nib 0x3, .wait 160, .nib 0x2,
       .byte fs false, .byte 0x10 false, .reg .dcr, .reg .dmr, .byte 0x01 false, .wait 3000] } ∧
    (s.cfg.rows = 1 → fs = if s.cfg.largeFont then 0x24 else 0x20) ∧ (1 < s.cfg.rows → fs = 0x28)

/-- R185: CLOSE clears OE, closes the engine and has no step to walk; DCR, DMR, the pins and all else stay. -/
def Obligations.CloseReleasesThePins : Prop :=
  opcode .close = 0x11 ∧ ∀ s : State, exec .close s = .next { s with oe := false, eng := .closed, steps := [] }

/-- The frame of all 18 meanings (R136, R23, R185): whatever an operation does at its grant, every other piece of
state is as before; every byte of every text buffer reads as before. (The register clause, `regAfter`, is the updates of
R156 to R167; the masks of blink and of DMR in it are values the spec marks as general knowledge, log 15.) -/
def Obligations.MeaningsFrame : Prop :=
  ∀ (i : Instr) (s t : State), exec i s = .next t →
    t.dcr = regAfter i .dcr s.dcr ∧ t.dmr = regAfter i .dmr s.dmr ∧
    (i ≠ .close → t.eng = s.eng ∧ t.oe = s.oe) ∧
    ((∀ len, i ≠ .print len) → t.cur = s.cur) ∧ t.cur = { s.cur with start := t.cur.start } ∧
    t.frv = s.frv ∧ t.frm = s.frm ∧ t.tmr = s.tmr ∧ t.seqStep = s.seqStep ∧ t.txSub = s.txSub ∧
    t.lock = s.lock ∧ t.pins = s.pins ∧ t.pw = s.pw ∧ t.cfg = s.cfg ∧ t.ports = s.ports ∧
    t.tClkNs = s.tClkNs ∧ t.sched = s.sched ∧ t.out = s.out ∧ t.free = s.free ∧
    (∀ p a, Memory.read (t.text p) a = Memory.read (s.text p) a) ∧ t.steps = stepListOf s.cfg i

/-- R155, R168: each set/clear operation touches exactly one bit of its register and forces it, whatever it was. -/
def Obligations.SetClearForcesOneBit : Prop :=
  ∀ (i : Instr) (r : Reg) (k : Nat) (b : Bool) (s : State),
    (i, r, k, b) ∈ [(Instr.display, Reg.dcr, 2, true), (.noDisplay, .dcr, 2, false), (.cursor, .dcr, 1, true),
      (.noCursor, .dcr, 1, false), (.blink, .dcr, 0, true), (.noBlink, .dcr, 0, false),
      (.leftToRight, .dmr, 1, true), (.rightToLeft, .dmr, 1, false), (.autoscroll, .dmr, 0, true),
      (.noAutoscroll, .dmr, 0, false)] →
    ∃ t, exec i s = .next t ∧ (t.reg r).getLsbD k = b ∧
      (∀ j, j ≠ k → (t.reg r).getLsbD j = (s.reg r).getLsbD j) ∧ (∀ q, q ≠ r → t.reg q = s.reg q)

/-! ### The arbiter -/

/-- R136, R64: when the next move grants port `p`, which holds the word `w` of operation `i`, or when that grant is
the block's one enabled step and the schedule is empty, the step is the meaning of `i` at the state with the lock,
`CUR`, `PEND[p]` and the position set as R136 says. -/
def Obligations.StepRunsGrantedRequest : Prop :=
  ∀ (s : State) (p : Nat) (w : Word) (i : Instr), s.pend p = some (.posted w) → decode w = .request i →
    s.eng = .opened → s.cur.valid = false → s.lock = none →
    (s.sched.head? = some (.grant p) ∨ (s.sched = [] ∧ s.ownMoves = [.grant p])) →
    step s = exec i { s with
      lock := some p
      cur := { valid := true, owner := .port p, op := w.extractLsb' 16 8, arg := w.extractLsb' 0 16,
               start := s.cur.start }
      ports := s.ports.modify p fun q => { q with pend := .granted }
      seqStep := 0
      txSub := 0
      sched := s.sched.tail
      out := [.granted p] }

/-- R137: exactly the eligible ports can be granted; the grant of any other port changes nothing. -/
def Obligations.EligiblePorts : Prop :=
  ∀ (s : State) (p : Nat),
    (s.eligible p = true ↔ s.eng = .opened ∧ s.cur.valid = false ∧ s.lock = none ∧
      ∃ w, s.pend p = some (.posted w) ∧ (opField w).toNat ≤ 0x11) ∧
    ∀ rest, s.sched = .grant p :: rest → s.eligible p = false → step s = .next { s with sched := rest, out := [] }

/-- R140, R197(e), R57: without a schedule the step is one of the enabled steps of the block, every eligible port's
grant is among them, and when there is none nothing changes. (That an unscheduled step is one of these, freely
chosen, is the model's form of the open ARB: log 2, log 3.) -/
def Obligations.UnscheduledStepIsEnabled : Prop :=
  ∀ s : State, s.sched = [] →
    (s.ownMoves = [] → step s = .next { s with out := [] }) ∧
    (∀ p, s.eligible p = true → .grant p ∈ s.ownMoves) ∧
    (s.ownMoves ≠ [] → ∃ m ∈ s.ownMoves, ∃ n, step s = { s with out := [], free := n }.perform m) ∧
    ∀ m ∈ s.ownMoves, (m = .engine ∧ s.cur.valid = true ∧ s.pw = none) ∨
      ∃ p, (m = .grant p ∧ s.eligible p = true) ∨
        (m = .reject p ∧ ∃ w status, s.pend p = some (.posted w) ∧ s.rejection w = some status) ∨
        (m = .complete p ∧ ∃ op status info, s.pend p = some (.finishing op status info))

/-- R141, R64, R227: a post lands on an idle port only; a word changed while posted is the one held from then on. -/
def Obligations.PostingAndChangingAWord : Prop :=
  ∀ (s : State) (p : Nat) (w : Word) (x : Pend) (rest : List Move), s.pend p = some x →
    (s.sched = .post p w :: rest →
      (x = .idle → step s = .next { s with
        ports := s.ports.modify p fun q => { q with pend := .posted w }, sched := rest, out := [] }) ∧
      (x ≠ .idle → step s = .next { s with sched := rest, out := [] })) ∧
    (s.sched = .changeWord p w :: rest →
      ((∃ v, x = .posted v) → step s = .next { s with
        ports := s.ports.modify p fun q => { q with pend := .posted w }, sched := rest, out := [] }) ∧
      ((∀ v, x ≠ .posted v) → step s = .next { s with sched := rest, out := [] }))

/-- R191, R192, R194: an illegal word is rejected with ERR_PROGRAMMING in every phase, busy or not, a legal one with
ERR_CLOSED while the engine is closed; `PEND[p]` becomes FINISHING and nothing else of the machine changes; otherwise
a posted request is not rejected. (FINISHING also keeps the opcode: DEDUCED, log 9. That a scheduled rejection which does
not apply is an empty step is the model's choice, log 12.) -/
def Obligations.RejectionsChangeOnlyTheRequest : Prop :=
  ∀ (s : State) (p : Nat) (w : Word) (rest : List Move), s.pend p = some (.posted w) →
    s.sched = .reject p :: rest →
    (0x11 < (opField w).toNat → step s = .next { s with
      ports := s.ports.modify p fun q => { q with pend := .finishing (opField w) .errProgramming 0 }
      sched := rest, out := [.rejected p .errProgramming] }) ∧
    ((opField w).toNat ≤ 0x11 → s.eng = .closed → step s = .next { s with
      ports := s.ports.modify p fun q => { q with pend := .finishing (opField w) .errClosed 0 }
      sched := rest, out := [.rejected p .errClosed] }) ∧
    ((opField w).toNat ≤ 0x11 → s.eng ≠ .closed → step s = .next { s with sched := rest, out := [] })

/-- R138: the end step when the position has passed the last macro step: status OK, lock and `CUR.valid` released,
position and TMR zero, `PEND[p]` FINISHING. (The step list is the model's own field, emptied here, log 7.) -/
def Obligations.EndReleasesTheLock : Prop :=
  ∀ (s : State) (p : Nat) (rest : List Move), s.cur.valid = true → s.cur.owner = .port p → s.pw = none →
    s.steps.length ≤ s.seqStep.toNat → s.sched = .engine :: rest →
    step s = .next { s with
      lock := none
      cur := { s.cur with valid := false }
      seqStep := 0
      txSub := 0
      tmr := 0
      steps := []
      ports := s.ports.modify p fun q => { q with pend := .finishing s.cur.op .ok 0 }
      sched := rest
      out := [.ended p .ok 0] }

/-- R142, R82: the completion step emits the record and frees the port; nothing else changes. -/
def Obligations.CompletionFreesThePort : Prop :=
  ∀ (s : State) (p : Nat) (op : Byte) (status : Status) (info : BitVec 3) (rest : List Move),
    s.pend p = some (.finishing op status info) → s.sched = .complete p :: rest →
    step s = .next { s with
      ports := s.ports.modify p fun q => { q with pend := .idle }
      sched := rest
      out := [.done p op status info] }

/-- R82, R83, R142, R194: a completion record comes from a finished request of that port only, which is idle
afterwards; `ERR_IO` comes with the pin, every other status with info 0. -/
def Obligations.RecordsAnswerRequestsOnce : Prop :=
  ∀ (s t : State) (p : Nat), step s = .next t →
    (∀ op status info, Event.done p op status info ∈ t.out →
      s.pend p = some (.finishing op status info) ∧ t.pend p = some .idle) ∧
    (∀ status info, Event.ended p status info ∈ t.out →
      s.cur.owner = .port p ∧ t.lock = none ∧ t.cur.valid = false ∧
      (status = .ok ∧ info = 0 ∨ status = .errIo ∧ ∃ pin b, s.pw = some (pin, b) ∧ info = pinId pin)) ∧
    (∀ status, Event.rejected p status ∈ t.out →
      ∃ w, s.pend p = some (.posted w) ∧ t.pend p = some (.finishing (opField w) status 0) ∧
        (status = .errProgramming ∨ status = .errClosed))

/-! ### The transmitter -/

/-- R101, R102: the substeps of `Nib` and of `Byte`, in order, with the waits of 1 µs, 39 µs and 43 µs. (The order of the
four data writes is R101's listing, the spec's decision D10, log 18.) -/
def Obligations.NibbleAndByteSubsteps : Prop :=
  (∀ n : Nibble, nibSubsteps n =
    [.write .e true, .write .d0 (n.getLsbD 0), .write .d1 (n.getLsbD 1), .write .d2 (n.getLsbD 2),
     .write .d3 (n.getLsbD 3), .write .e false, .wait 1]) ∧
  ∀ (v : Byte) (m : Bool), byteSubsteps v m =
    [.write .rs m,
     .write .e true, .write .d0 (v.getLsbD 4), .write .d1 (v.getLsbD 5), .write .d2 (v.getLsbD 6),
     .write .d3 (v.getLsbD 7), .write .e false, .wait 1,
     .write .e true, .write .d0 (v.getLsbD 0), .write .d1 (v.getLsbD 1), .write .d2 (v.getLsbD 2),
     .write .d3 (v.getLsbD 3), .write .e false, .wait 1,
     .wait (if m then 43 else 39)]

/-- R106: the substep counts, the pin writes and the minimum times of the macro steps. -/
def Obligations.SubstepCounts : Prop :=
  (∀ (st : MacroStep) (v : Byte) (m : Bool), (substepsOf st v m).length = substepCount st) ∧
  (∀ us, substepCount (.wait us) = 1 ∧ pinWrites [.wait us] = 0) ∧
  (∀ n, substepCount (.nib n) = 7 ∧ pinWrites [.nib n] = 6 ∧ minDuration [.nib n] = 1) ∧
  (∀ v m, substepCount (.byte v m) = 16 ∧ pinWrites [.byte v m] = 13 ∧
    minDuration [.byte v m] = if m then 45 else 41) ∧
  (∀ i, substepCount (.char i) = 16 ∧ pinWrites [.char i] = 13 ∧ minDuration [.char i] = 45)

/-- R24, R64, R101, R102, R146: the step that issues a macro step's first write loads the frame registers, with the
register as it is then, or with the text byte read in that step (R51), and issues the first write. -/
def Obligations.FirstWriteLoadsTheFrame : Prop :=
  ∀ (s : State) (st : MacroStep) (rest : List Move), s.cur.valid = true → s.pw = none → s.tmr = 0 →
    s.txSub = 0 → s.steps[s.seqStep.toNat]? = some st → s.sched = .engine :: rest →
    (∀ n, st = .nib n → step s = .next { s with
      frv := s.frv.extractLsb' 4 4 ++ n, pw := some (.e, true), sched := rest, out := [.issued .e true] }) ∧
    (∀ v m, st = .byte v m → step s = .next { s with
      frv := v, frm := m, pw := some (.rs, m), sched := rest, out := [.issued .rs m] }) ∧
    (∀ r, st = .reg r → step s = .next { s with
      frv := s.reg r, frm := false, pw := some (.rs, false), sched := rest, out := [.issued .rs false] }) ∧
    (∀ i p, st = .char i → s.cur.owner = .port p → step s = .next { s with
      frv := Memory.read (s.text p) i.toNat, frm := true, pw := some (.rs, true), sched := rest
      out := [.textRead i (Memory.read (s.text p) i.toNat), .issued .rs true] })

/-- R103, R55: with no write in flight and no wait in progress, a later write substep is issued as the frame registers
have it; nothing else changes. -/
def Obligations.LaterWritesUseTheFrame : Prop :=
  ∀ (s : State) (pin : Pin) (b : Bool) (rest : List Move), s.cur.valid = true → s.pw = none → s.tmr = 0 →
    s.txSub ≠ 0 → s.currentSubstep = some (.write pin b) → s.sched = .engine :: rest →
    step s = .next { s with pw := some (pin, b), sched := rest, out := [.issued pin b] }

/-- R55, R26: `ack` alone sets the pin shadow, ends the write and advances the position to the next substep (a macro
step's last substep is always a wait, R106). -/
def Obligations.AckAdvancesThePosition : Prop :=
  ∀ (s : State) (pin : Pin) (b : Bool) (st : MacroStep) (rest : List Move), s.pw = some (pin, b) →
    s.steps[s.seqStep.toNat]? = some st → s.txSub.toNat + 1 < substepCount st →
    s.sched = .pinAnswer true false :: rest →
    step s = .next { s with
      pins := s.pins.set pin b, pw := none, txSub := s.txSub + 1, sched := rest, out := [.acked pin b] }

/-- R26, R104, R241: when the last clock period of a wait passes, the wait ends and the position advances: to the next
substep of the macro step, or to the next macro step after the last substep. -/
def Obligations.WaitEndAdvancesThePosition : Prop :=
  ∀ (s : State) (us : Nat) (st : MacroStep) (rest : List Move), s.cur.valid = true → s.pw = none → s.tmr = 1 →
    s.steps[s.seqStep.toNat]? = some st → s.currentSubstep = some (.wait us) → s.sched = .engine :: rest →
    (s.txSub.toNat + 1 < substepCount st → step s = .next { s with
      tmr := 0, txSub := s.txSub + 1, sched := rest, out := [.waitEnded us] }) ∧
    (substepCount st ≤ s.txSub.toNat + 1 → step s = .next { s with
      tmr := 0, seqStep := s.seqStep + 1, txSub := 0, sched := rest, out := [.waitEnded us] })

/-- R196, R138, R197(c), R198, R108: `err`, alone or together with `ack`, aborts the operation of port `p`: ERR_IO with
the pin's id, the lock released, the registers, ENG, OE and the other pins kept. The failed pin's level is any value
(U4, log 1), so it is only said to be some value `x`. -/
def Obligations.FailedWriteAborts : Prop :=
  ∀ (s : State) (pin : Pin) (b ack : Bool) (p : Nat) (rest : List Move), s.pw = some (pin, b) →
    s.cur.owner = .port p → s.sched = .pinAnswer ack true :: rest →
    ∃ x : Bool, step s = .next { s with
      pw := none
      pins := s.pins.set pin x
      lock := none
      cur := { s.cur with valid := false }
      seqStep := 0
      txSub := 0
      tmr := 0
      steps := []
      ports := s.ports.modify p fun q => { q with pend := .finishing s.cur.op .errIo (pinId pin) }
      free := s.free + 1
      sched := rest
      out := [.failed pin, .ended p .errIo (pinId pin)] }

/-- R123, R209: the automatic initialization ends with READY after its last step, or with BOOT_ERR at a failed pin
write; either way `CUR.valid = 0` and `ENG = OPEN`, and no completion record is made. (That the position and TMR
return to zero is DEDUCED, log 11; the failed pin's level is any value, log 1.) -/
def Obligations.BootEndsReadyOrWithError : Prop :=
  ∀ (s : State) (rest : List Move), s.cur.valid = true → s.cur.owner = .auto →
    (s.pw = none → s.steps.length ≤ s.seqStep.toNat → s.sched = .engine :: rest →
      step s = .next { s with
        cur := { s.cur with valid := false }, eng := .opened
        seqStep := 0, txSub := 0, tmr := 0, steps := [], sched := rest, out := [.ready] }) ∧
    (∀ pin b ack, s.pw = some (pin, b) → s.sched = .pinAnswer ack true :: rest →
      ∃ x : Bool, step s = .next { s with
        pw := none, pins := s.pins.set pin x
        cur := { s.cur with valid := false }, eng := .opened
        seqStep := 0, txSub := 0, tmr := 0, steps := [], free := s.free + 1, sched := rest
        out := [.failed pin, .bootErr (pinId pin)] })

/-- R57, R35, R199, R224: while a write is in flight and the Pin Set gives no signal, no step but reset (or the
requester the spec refuses, U5) changes the write, the operation, the lock, the position, the registers, the pins or
the phase; the machine goes on. Without a write in flight an answer of the Pin Set changes nothing (R199, log 12). The late
answer to a write that a reset abandoned changes nothing in any state, a new write in flight or not (R224, log 26). -/
def Obligations.UnansweredWriteHoldsTheEngine : Prop :=
  (∀ (s : State) (w : Pin × Bool), s.pw = some w → s.cur.valid = true → s.noReset →
    (∀ ack err, s.sched.head? = some (.pinAnswer ack err) → ack = false ∧ err = false) →
    (∀ p, s.sched.head? ≠ some (.withdraw p)) →
    ∃ t, step s = .next t ∧ t.pw = s.pw ∧ t.cur = s.cur ∧ t.lock = s.lock ∧ t.steps = s.steps ∧
      t.seqStep = s.seqStep ∧ t.txSub = s.txSub ∧ t.tmr = s.tmr ∧ t.dcr = s.dcr ∧ t.dmr = s.dmr ∧
      t.pins = s.pins ∧ t.eng = s.eng ∧ t.oe = s.oe ∧ t.frv = s.frv ∧ t.frm = s.frm ∧ t.cfg = s.cfg) ∧
  (∀ (s : State) (ack err : Bool) (rest : List Move), s.pw = none → s.sched = .pinAnswer ack err :: rest →
    step s = .next { s with sched := rest, out := [] }) ∧
  ∀ (s : State) (ack err : Bool) (rest : List Move), s.sched = .lateAnswer ack err :: rest →
    step s = .next { s with sched := rest, out := [] }

/-- R10, R104, R241: what a wait loads into the timer is at least one clock period and at least the wait's time. -/
def Obligations.TimerLoadCoversTheWait : Prop :=
  ∀ us tClkNs : Nat, 1 ≤ tClkNs → 1 ≤ timerLoad us tClkNs ∧ us * 1000 ≤ timerLoad us tClkNs * tClkNs ∧
    (1 < timerLoad us tClkNs → (timerLoad us tClkNs - 1) * tClkNs < us * 1000)

/-- R104, R241: a wait that begins loads TMR; `k` clock periods later, for every `k` below the load, the position is
where it was and TMR has counted down by `k`; after all of them the wait has ended and the position has advanced. -/
def Obligations.WaitHoldsThePosition : Prop :=
  ∀ (s : State) (us : Nat) (rest : List Move), s.cur.valid = true → s.pw = none → s.tmr = 0 →
    s.steps[s.seqStep.toNat]? = some (.wait us) → s.txSub = 0 →
    s.sched = .engine :: (List.replicate (timerLoad us s.tClkNs) .engine ++ rest) →
    (∀ k, k < timerLoad us s.tClkNs → ∃ t, Host.Core.run core (k + 1) s = .next t ∧
      t.seqStep = s.seqStep ∧ t.txSub = s.txSub ∧ t.tmr = timerLoad us s.tClkNs - k) ∧
    Host.Core.run core (timerLoad us s.tClkNs + 1) s =
      .next { s with seqStep := s.seqStep + 1, tmr := 0, sched := rest, out := [.waitEnded us] }

/-- R104, R139: while a wait is in progress no step but reset moves the position or ends the operation before TMR has
run out, and no step shortens TMR by more than one clock period. -/
def Obligations.WaitCannotBeCutShort : Prop :=
  ∀ s t : State, s.Inv → 1 < s.tmr → s.noReset → step s = .next t →
    t.cur = s.cur ∧ t.lock = s.lock ∧ t.seqStep = s.seqStep ∧ t.txSub = s.txSub ∧ t.pw = none ∧
    (t.tmr = s.tmr ∨ t.tmr + 1 = s.tmr)

/-- R85, R105, R125: WHAT THE TRANSMITTER PUTS ON THE PINS. When the machine runs a macro step that sends a byte (`Byte`,
a register, or a character) and the Pin Set acknowledges every write, a receiver that watches the acknowledged writes
latches the high nibble, then the low one, with RS at the byte's mode; when it runs `Nib`, the nibble with RS as it was.
Both hold for EVERY levels `x` of the real pins before the macro step: the shadow is not taken for them, since a pin no
acknowledged write has set may have any level (R32, U13, log 24). The two nibbles make up the byte. (That a receiver latches at the fall of E is general knowledge, G6, log 15; the schedule
is the model's, log 2, with one move per clock period of a wait, log 10.) -/
def Obligations.ReceiverLatchesTheByte : Prop :=
  (∀ (s : State) (st : MacroStep) (v : Byte) (m : Bool) (rest : List Move), s.cur.valid = true → s.pw = none →
    s.tmr = 0 → s.txSub = 0 → s.steps[s.seqStep.toNat]? = some st →
    (st = .byte v m ∨ (∃ r, st = .reg r ∧ v = s.reg r ∧ m = false) ∨
      ∃ i p, st = .char i ∧ s.cur.owner = .port p ∧ v = Memory.read (s.text p) i.toNat ∧ m = true) →
    s.sched = ackMoves s.tClkNs [st] ++ rest →
    ∃ es t, runTrace (ackMoves s.tClkNs [st]).length s = some (es, t) ∧
      (∀ x : Pins, latched x es = [(m, v.extractLsb' 4 4), (m, v.extractLsb' 0 4)]) ∧
      t.seqStep = s.seqStep + 1 ∧ t.txSub = 0 ∧ t.sched = rest) ∧
  (∀ (s : State) (n : Nibble) (rest : List Move), s.cur.valid = true → s.pw = none → s.tmr = 0 → s.txSub = 0 →
    s.steps[s.seqStep.toNat]? = some (.nib n) → s.sched = ackMoves s.tClkNs [.nib n] ++ rest →
    ∃ es t, runTrace (ackMoves s.tClkNs [.nib n]).length s = some (es, t) ∧
      (∀ x : Pins, latched x es = [(x.rs, n)]) ∧ t.seqStep = s.seqStep + 1 ∧ t.txSub = 0 ∧ t.sched = rest) ∧
  ∀ v : Byte, v.extractLsb' 4 4 ++ v.extractLsb' 0 4 = v ∧
    (v.extractLsb' 4 4).toNat = v.toNat / 16 ∧ (v.extractLsb' 0 4).toNat = v.toNat % 16

/-- R107, R62: every step list frames every nibble: E high, the four data writes, E low, and RS never inside. (`framed`
accepts the four data writes in the ascending order D0 to D3 only, which R62 and R107 do not ask for: it is the spec's
decision D10 in R56, log 18, and D10 asks that no claim be made about the order inside a pulse.) -/
def Obligations.StepListsAreFramed : Prop :=
  ∀ (c : Cfg) (i : Instr), framed none ((stepListOf c i).flatMap substepShape) = true

/-- R144, R145, R147: the pagination rule and its arithmetic. -/
def Obligations.PaginationArithmetic : Prop :=
  startIndex 802 = 720 ∧ startIndex 65535 = 65440 ∧
  ∀ len, len < 65536 →
    startIndex len = (if len / 80 > 1 then (len / 80 - 1) * 80 else 0) ∧ startIndex len ≤ 65440 ∧
    startIndex len ≤ len ∧ (len < 160 → len - startIndex len = len) ∧
    (160 ≤ len → len - startIndex len = 80 + len % 80) ∧ len - startIndex len ≤ 159 ∧
    (stepListOf Cfg.default (.print len)).length ≤ 159

/-- R243, R145: pin writes and minimum duration of every operation. (The 3 ms in INIT, CLEAR and HOME are the spec's
decisions D5 and D23, log 16.) -/
def Obligations.WritesAndDurations : Prop :=
  ∀ c : Cfg,
    (pinWrites (stepListOf c .init) = 89 ∧ minDuration (stepListOf c .init) = 22629) ∧
    (∀ len, pinWrites (stepListOf c (.print len)) = 13 * (len - startIndex len) ∧
      minDuration (stepListOf c (.print len)) = 45 * (len - startIndex len)) ∧
    (∀ i ∈ [Instr.clear, .home], pinWrites (stepListOf c i) = 13 ∧ minDuration (stepListOf c i) = 3041) ∧
    (∀ i ∈ [Instr.display, .noDisplay, .cursor, .noCursor, .blink, .noBlink, .leftToRight, .rightToLeft, .autoscroll,
        .noAutoscroll, .scrollLeft, .scrollRight], pinWrites (stepListOf c i) = 13 ∧ minDuration (stepListOf c i) = 41) ∧
    (∀ col row, pinWrites (stepListOf c (.setCursor col row)) = 13 ∧
      minDuration (stepListOf c (.setCursor col row)) = 41) ∧
    (pinWrites (stepListOf c .close) = 0 ∧ minDuration (stepListOf c .close) = 0)

/-! ### The text buffers -/

/-- R50 to R53: a byte written is read back, every other index reads as before, and the canonical form is kept. -/
def Obligations.TextReadAfterWrite : Prop :=
  ∀ (m : Memory) (i j : Nat) (b : Byte), Memory.wf m = true → i < 65536 →
    Memory.wf (Memory.write m i b) = true ∧
    Memory.read (Memory.write m i b) j = if j = i then b else Memory.read m j

/-- R51, R52: a requester's write to its text shows at every later read of that index, changes no other byte of any
port, and changes no other piece of state. -/
def Obligations.TextWritesAreThePortsOwn : Prop :=
  ∀ (s : State) (p : Nat) (i : Half) (b : Byte) (rest : List Move), s.TextsWf → p < s.ports.length →
    s.sched = .writeText p i b :: rest →
    ∃ t, step s = .next t ∧ t = { s with ports := t.ports, sched := rest, out := [] } ∧ t.TextsWf ∧
      (∀ q, t.pend q = s.pend q) ∧
      ∀ q a, Memory.read (t.text q) a = if q = p ∧ a = i.toNat then b else Memory.read (s.text q) a

/-! ### Reset -/

/-- R220, R38, R221, R224: in the step that sees reset every piece of state takes its reset value, whatever was in progress,
by the sampled configuration. (`CUR.arg`, `CUR.start` and, with the automatic initialization suppressed, the rest of
`CUR` are the model's choice, log 5; that the text buffers, the parameters and the schedule stay is log 19, that the
counter `free` stays is log 21; `DMR = 0x06` is general knowledge, log 15; the pin shadow's 0 is bookkeeping, log 24.) A
reset that samples `ROWS` outside 1..4 is refused (R8, R195, U11; DEDUCED, log 14). -/
def Obligations.ResetFromAnyState : Prop :=
  ∀ (s : State) (c : Cfg) (rest : List Move), s.sched = .reset c :: rest →
    (c.wf = false → step s = .refused .badConfiguration) ∧
    (c.wf = true → step s = .next
      { dcr := 0x0C, dmr := 0x06, frv := 0, frm := false, tmr := 0, seqStep := 0, txSub := 0
        cur := { valid := !c.suppressAutoInit, owner := .auto, op := 0, arg := 0, start := 0 }
        steps := if c.suppressAutoInit then [] else initSteps c
        eng := if c.suppressAutoInit then .opened else .boot
        lock := none, oe := true
        ports := s.ports.map fun q => { q with pend := .idle }
        pins := Pins.low, pw := none, cfg := c
        tClkNs := s.tClkNs, sched := rest, out := [.resetSeen], free := s.free })

/-- R34, R38: the status outputs, as functions of the state and at reset. (The reset state has the default configuration,
log 4, and `0x06` is a value the spec marks as general knowledge, log 15.) -/
def Obligations.StatusOutputs : Prop :=
  (∀ s : State, s.busyQ = s.cur.valid ∧ (s.lockQ = true ↔ s.lock ≠ none) ∧ (s.closedQ = true ↔ s.eng = .closed) ∧
    (s.engQ = 0 ↔ s.eng = .boot) ∧ (s.engQ = 1 ↔ s.eng = .opened) ∧ (s.engQ = 2 ↔ s.eng = .closed) ∧
    s.dcrQ = s.dcr ∧ s.dmrQ = s.dmr ∧ s.oeQ = s.oe) ∧
  State.reset.busyQ = true ∧ State.reset.lockQ = false ∧ State.reset.closedQ = false ∧ State.reset.engQ = 0 ∧
  State.reset.dcrQ = 0x0C ∧ State.reset.dmrQ = 0x06 ∧ State.reset.oeQ = true

/-- R36, R54, R55, R82, R83, R89, R209, D9: the output ports. The pin-write port shows the write in flight under its pin
id; the completion port of `p` shows the record in the step that completes it, no other port shows one then, and after the
next step `p` shows none; READY and BOOT_ERR show in the step that ends the automatic initialization, in no other, and
not after the next; the text index is that of the current `Char`, whose text is read only at that index. (That an event
is shown for exactly one step of the model is DEDUCED, log 22.) -/
def Obligations.OutputPorts : Prop :=
  ([Pin.d0, .d1, .d2, .d3, .rs, .e].map pinId = [0, 1, 2, 3, 4, 5]) ∧
  ([Status.ok, .errProgramming, .errIo, .errClosed].map statusCode = [0, 1, 2, 3]) ∧
  (∀ s : State, s.pw = none → s.pwValid = false ∧ s.pwPort = none) ∧
  (∀ (s : State) (pin : Pin) (b : Bool), s.pw = some (pin, b) →
    s.pwValid = true ∧ s.pwPort = some (pinId pin, b)) ∧
  (∀ (s : State) (p : Nat) (op : Byte) (status : Status) (info : BitVec 3) (rest : List Move),
    s.pend p = some (.finishing op status info) → s.sched = .complete p :: rest →
    ∃ t, step s = .next t ∧ t.doneOut p = some (statusCode status, info) ∧ (∀ q, q ≠ p → t.doneOut q = none) ∧
      ∀ u, step t = .next u → u.doneOut p = none) ∧
  (∀ (s : State) (rest : List Move), s.cur.valid = true → s.cur.owner = .auto → s.pw = none →
    s.steps.length ≤ s.seqStep.toNat → s.sched = .engine :: rest →
    ∃ t, step s = .next t ∧ t.readyOut = true ∧ t.bootErrOut = none ∧
      ∀ u, step t = .next u → u.readyOut = false ∧ u.bootErrOut = none) ∧
  (∀ (s : State) (pin : Pin) (b ack : Bool) (rest : List Move), s.cur.owner = .auto → s.pw = some (pin, b) →
    s.sched = .pinAnswer ack true :: rest →
    ∃ t, step s = .next t ∧ t.readyOut = false ∧ t.bootErrOut = some (pinId pin) ∧
      ∀ u, step t = .next u → u.readyOut = false ∧ u.bootErrOut = none) ∧
  (∀ s t : State, step s = .next t → t.readyOut = true ∨ t.bootErrOut ≠ none →
    s.cur.owner = .auto ∧ t.eng = .opened ∧ t.cur.valid = false) ∧
  (∀ (s : State) (i : Half), s.txtIdx = some i ↔ s.steps[s.seqStep.toNat]? = some (.char i)) ∧
  ∀ (s t : State) (i : Half) (b : Byte), step s = .next t → Event.textRead i b ∈ t.out →
    s.txtIdx = some i ∧ t.txtIdx = some i ∧ b = s.ownerByte i

/-- R84: the named notification of a completion record, or none. -/
def Obligations.NamedNotifications : Prop :=
  notificationOf (opcode .init) .ok = some .ready ∧
  (∀ len, notificationOf (opcode (.print len)) .ok = some .printed) ∧
  notificationOf (opcode .clear) .ok = some .clear ∧ notificationOf (opcode .home) .ok = some .home ∧
  (∀ (op : Byte) (status : Status), status ≠ .ok → notificationOf op status = some .error) ∧
  ∀ op : Byte, 0x03 < op.toNat → notificationOf op .ok = none

/-! ### The whole machine -/

/-- The state after reset meets the invariant. (The identifier bits of DMR in it are a value the spec marks as general
knowledge, log 15; the reset state has the parameters of log 4.) -/
def Obligations.ResetMeetsInvariant : Prop := State.reset.Inv

/-- R21, R22, R168: no step ever changes the identifier and the constant bits of DCR and DMR. (The identifier of DMR is a
value the spec marks as general knowledge, log 15.) -/
def Obligations.IdentifierBitsKept : Prop :=
  ∀ s t : State, s.RegsLegal → step s = .next t → t.RegsLegal

/-- R29, R31, R123: every step keeps the lock, the owner, the granted port and the phase BOOT in agreement; so at most
one port is granted at a time. -/
def Obligations.LockAgreementKept : Prop :=
  ∀ s t : State, s.LockConsistent → step s = .next t →
    t.LockConsistent ∧ ∀ p q, t.pend p = some .granted → t.pend q = some .granted → p = q

/-- R21, R22, R26, R29, R30, R35, R103, R106, R138: every step keeps the whole invariant. (The identifier bits of DMR are
a value the spec marks as general knowledge, log 15; the step list as data is log 7, the end of the automatic
initialization log 11.) -/
def Obligations.EveryStepKeepsInvariant : Prop :=
  ∀ s t : State, s.Inv → step s = .next t → t.Inv

/-- R106, R63: from a state that meets the invariant no run ever faults. -/
def Obligations.RunsNeverFault : Prop :=
  ∀ (s : State) (n : Nat) (r : Fault), s.Inv → Host.Core.run core n s ≠ .fault r

/-- R8, R227, U5, U11: a step is refused only for a withdrawn request (DEDUCED, log 13) or for a reset with `ROWS` outside
1..4 (DEDUCED, log 14). -/
def Obligations.RefusalsAreInputs : Prop :=
  ∀ (s : State) (r : Refusal), step s = .refused r →
    (∃ p, s.sched.head? = some (.withdraw p) ∧ r = .requestWithdrawn p) ∨
    (∃ c, s.sched.head? = some (.reset c) ∧ c.wf = false ∧ r = .badConfiguration)

/-- R23, R65: a display-state register changes only by reset or in the grant step of one of the set/clear operations
on it, whose port then holds the lock. (The updated registers, `regAfter`, are R156 to R167's; the masks of blink and of
DMR in them are values the spec marks as general knowledge, log 15.) -/
def Obligations.RegistersChangeOnlyAtGrants : Prop :=
  ∀ s t : State, s.noReset → step s = .next t → (t.dcr ≠ s.dcr ∨ t.dmr ≠ s.dmr) →
    ∃ p w i, s.pend p = some (.posted w) ∧ decode w = .request i ∧ Event.granted p ∈ t.out ∧ t.lock = some p ∧
      t.dcr = regAfter i .dcr s.dcr ∧ t.dmr = regAfter i .dmr s.dmr ∧
      (t.dcr ≠ s.dcr → i ∈ [Instr.display, .noDisplay, .cursor, .noCursor, .blink, .noBlink]) ∧
      (t.dmr ≠ s.dmr → i ∈ [Instr.leftToRight, .rightToLeft, .autoscroll, .noAutoscroll])

/-- R8, R9, R33, R37: the configuration changes only at reset, which samples it; the clock period and the number of ports
never change. (That these parameters are held as data in State is the model's choice, log 4.) -/
def Obligations.ConfigurationIsImmutable : Prop :=
  ∀ s t : State, step s = .next t →
    (s.noReset → t.cfg = s.cfg) ∧ (∀ c, s.sched.head? = some (.reset c) → t.cfg = c) ∧
    t.tClkNs = s.tClkNs ∧ t.ports.length = s.ports.length

/-- R8, R177: `COLUMNS` has no effect: two machines that differ only in it differ only in it after every step. -/
def Obligations.ColumnsHaveNoEffect : Prop :=
  ∀ (s : State) (c : Byte), s.noReset → step (s.withColumns c) = mapNext (fun t => t.withColumns c) (step s)

/-- R204: the phase transitions, all of them: reset to BOOT or OPEN; BOOT to OPEN at the end of the automatic
initialization, successful or not; OPEN to CLOSED at the grant of a CLOSE; no other. -/
def Obligations.PhaseTransitions : Prop :=
  (∀ (s t : State) (c : Cfg), s.sched.head? = some (.reset c) → step s = .next t →
    t.eng = if c.suppressAutoInit then .opened else .boot) ∧
  ∀ s t : State, s.Inv → s.noReset → step s = .next t →
    (t.eng = s.eng ∨
     (s.eng = .boot ∧ t.eng = .opened ∧ (Event.ready ∈ t.out ∨ ∃ pin, Event.bootErr pin ∈ t.out)) ∨
     (s.eng = .opened ∧ t.eng = .closed ∧
       ∃ p w, s.pend p = some (.posted w) ∧ decode w = .request .close ∧ Event.granted p ∈ t.out)) ∧
    ((Event.ready ∈ t.out ∨ ∃ pin, Event.bootErr pin ∈ t.out) → t.eng = .opened) ∧
    (∀ p w, s.pend p = some (.posted w) → decode w = .request .close → Event.granted p ∈ t.out → t.eng = .closed)

/-- R186, R187: a closed engine stays closed, keeps the pins released and its registers, and issues no pin write. -/
def Obligations.ClosedUntilReset : Prop :=
  ∀ s t : State, s.Inv → s.eng = .closed → s.noReset → step s = .next t →
    t.eng = .closed ∧ t.oe = false ∧ t.pw = none ∧ t.dcr = s.dcr ∧ t.dmr = s.dmr ∧ t.pins = s.pins ∧
    ∀ pin b, Event.issued pin b ∉ t.out

/-- R139, R149, R61: between its grant and its end no other operation touches anything: the running operation, the
lock, the step list and the registers are as they were, or the operation has ended. -/
def Obligations.NoPreemption : Prop :=
  ∀ s t : State, s.Inv → s.cur.valid = true → s.noReset → step s = .next t →
    t.dcr = s.dcr ∧ t.dmr = s.dmr ∧
    ((t.cur = s.cur ∧ t.lock = s.lock ∧ t.steps = s.steps) ∨
     (t.cur = { s.cur with valid := false } ∧ t.lock = none ∧
       ((∃ p status info, s.cur.owner = .port p ∧ Event.ended p status info ∈ t.out) ∨
        (s.cur.owner = .auto ∧ (Event.ready ∈ t.out ∨ ∃ pin, Event.bootErr pin ∈ t.out)))))

/-- R26, R58: the position is walked once, forward: it stays, goes to the next substep, or from the last substep of a
macro step to the start of the next one. -/
def Obligations.PositionWalksForward : Prop :=
  ∀ s t : State, s.Inv → s.cur.valid = true → s.noReset → step s = .next t → t.cur.valid = true →
    (t.seqStep = s.seqStep ∧ t.txSub = s.txSub) ∨
    (t.seqStep = s.seqStep ∧ t.txSub.toNat = s.txSub.toNat + 1) ∨
    (t.seqStep.toNat = s.seqStep.toNat + 1 ∧ t.txSub = 0 ∧
      ∃ st, s.steps[s.seqStep.toNat]? = some st ∧ s.txSub.toNat + 1 = substepCount st)

/-- R107, R103, R186 (V83): a pin write is issued only by the running operation, at its own position, with no other
write in flight, no wait in progress and the pins owned. -/
def Obligations.WritesBelongToTheOperation : Prop :=
  ∀ (s t : State) (pin : Pin) (b : Bool), s.Inv → step s = .next t → Event.issued pin b ∈ t.out →
    s.cur.valid = true ∧ s.pw = none ∧ s.tmr = 0 ∧ s.oe = true ∧ t.pw = some (pin, b) ∧
    t.seqStep = s.seqStep ∧ t.txSub = s.txSub ∧ t.currentSubstep = some (.write pin b)

/-- R61, R63, R101, R102, R121, R136, R138, R143, R146, R155, R175, R178: THE WHOLE OPERATION. From every state that
meets the invariant, when an eligible port is granted and the Pin Set acknowledges every write, the events are the
grant, then exactly the writes, reads and waits of the operation's step list in order, then `End(p, OK, 0)`; the
registers hold their updated values, the lock is free and the other ports' requests and all text are as before. (The
schedule is the model's, log 2, with one move per clock period, log 10; the bytes rest on the general-knowledge values of
log 15, the 3 ms waits on log 16, the row clamp on log 17, the order of the data writes on log 18.) -/
def Obligations.GrantedOperationRunsToItsEnd : Prop :=
  ∀ (s : State) (p : Nat) (w : Word) (i : Instr) (rest : List Move), s.Inv → s.eligible p = true →
    s.pend p = some (.posted w) → decode w = .request i →
    s.sched = .grant p :: (ackMoves s.tClkNs (stepListOf s.cfg i) ++ .engine :: rest) →
    ∃ t, runTrace ((ackMoves s.tClkNs (stepListOf s.cfg i)).length + 2) s = some
        (.granted p :: ((stepListOf s.cfg i).flatMap
          (({ s with dcr := regAfter i .dcr s.dcr, dmr := regAfter i .dmr s.dmr } : State).stepEvents p) ++
          [.ended p .ok 0]), t) ∧
      t.dcr = regAfter i .dcr s.dcr ∧ t.dmr = regAfter i .dmr s.dmr ∧
      t.cur.valid = false ∧ t.lock = none ∧ t.pw = none ∧ t.tmr = 0 ∧
      t.pend p = some (.finishing (opcode i) .ok 0) ∧ (∀ q, q ≠ p → t.pend q = s.pend q) ∧
      t.eng = (if i = .close then .closed else .opened) ∧ t.oe = decide (i ≠ .close) ∧
      t.cfg = s.cfg ∧ t.sched = rest ∧ ∀ q a, Memory.read (t.text q) a = Memory.read (s.text q) a

/-- R121, R123, R209: THE AUTOMATIC INITIALIZATION. From every state that meets the invariant with the automatic
initialization at its start, when the Pin Set acknowledges every write, the events are those of INIT's step list, with
the current registers, then READY; the engine is open and the registers are as they were. (Schedule log 2, waits log 10,
option bits log 15, the final 3 ms log 16, the order of the data writes log 18.) -/
def Obligations.AutomaticInitializationRuns : Prop :=
  ∀ (s : State) (rest : List Move), s.Inv → s.cur.valid = true → s.cur.owner = .auto →
    s.seqStep = 0 → s.txSub = 0 → s.pw = none → s.tmr = 0 →
    s.sched = ackMoves s.tClkNs (initSteps s.cfg) ++ .engine :: rest →
    ∃ t, runTrace ((ackMoves s.tClkNs (initSteps s.cfg)).length + 1) s = some
        ((initSteps s.cfg).flatMap (s.stepEvents 0) ++ [.ready], t) ∧
      t.eng = .opened ∧ t.cur.valid = false ∧ t.lock = none ∧ t.dcr = s.dcr ∧ t.dmr = s.dmr ∧
      t.pw = none ∧ t.ports = s.ports ∧ t.sched = rest
end

