-- ==== Sys2Proof/Laws/Decode.lean ====
section
/-! SUPPORT. The fields of a request word (R71, R73). -/

namespace Sys2Proof

/-- The upper field of two bit vectors put together. -/
theorem extract_high {n m : Nat} (x : BitVec n) (y : BitVec m) : (x ++ y).extractLsb' m n = x := by
  ext i hi
  simp [BitVec.getElem_extractLsb', BitVec.getLsbD_append, BitVec.getLsbD_eq_getElem hi]

/-- The lower field of two bit vectors put together. -/
theorem extract_low {n m : Nat} (x : BitVec n) (y : BitVec m) : (x ++ y).extractLsb' 0 m = y := by
  ext i hi
  simp [BitVec.getElem_extractLsb', BitVec.getLsbD_append, hi]

/-- A bit vector is its two fields. -/
theorem append_extract {n m : Nat} (w : BitVec (n + m)) : w.extractLsb' m n ++ w.extractLsb' 0 m = w := by
  ext i hi
  simp only [BitVec.getElem_append, BitVec.getElem_extractLsb']
  split
  · simp [BitVec.getLsbD_eq_getElem hi]
  · rename_i h
    have h' : m + (i - m) = i := by omega
    simp [h', BitVec.getLsbD_eq_getElem hi]

/-- The opcode of a word put together from its fields. -/
@[simp] theorem opField_append (op : Byte) (arg : Half) : opField (op ++ arg) = op := extract_high op arg

/-- The argument of a word put together from its fields. -/
@[simp] theorem argField_append (op : Byte) (arg : Half) : argField (op ++ arg) = arg := extract_low op arg

/-- A word is its two fields. -/
theorem append_fields (w : Word) : opField w ++ argField w = w := append_extract (n := 8) (m := 16) w

/-- `col` of an argument put together as R71 says. -/
@[simp] theorem colField_append (row col : Byte) : colField (row ++ col) = col := extract_low row col

/-- `row` of an argument put together as R71 says. -/
@[simp] theorem rowField_append (row col : Byte) : rowField (row ++ col) = row := extract_high row col

/-- An argument is its two bytes. -/
theorem append_argument_fields (arg : Half) : rowField arg ++ colField arg = arg :=
  append_extract (n := 8) (m := 8) arg

/-- Decoding a word put together from its fields. -/
@[simp] theorem decode_append (op : Byte) (arg : Half) : decode (op ++ arg) = decodeFields op arg := by
  unfold decode
  rw [opField_append, argField_append]

end Sys2Proof
end

