-- ==== Sys2Proof/Laws/Decoding.lean ====
section
/-! SUPPORT. What the decoder can answer (R72, R76), said once. -/

namespace Sys2Proof

/-- A legal opcode is one of the 18. -/
theorem legalOp_iff (op : Byte) : legalOp op = true ↔ op.toNat ≤ 0x11 := by simp [legalOp]

/-- Every opcode value up to `0x11` is decoded to an operation with that opcode. -/
theorem decodeFields_of_legal (op : Byte) (arg : Half) (h : legalOp op = true) :
    ∃ i, decodeFields op arg = .request i ∧ opcode i = op := by
  rw [legalOp_iff] at h
  obtain ⟨n, hn⟩ : ∃ n, op.toNat = n := ⟨_, rfl⟩
  have hop : op = BitVec.ofNat 8 n := by rw [← hn]; simp
  rw [hn] at h
  subst hop
  unfold decodeFields
  rw [hn]
  interval_cases n <;> exact ⟨_, rfl, rfl⟩

/-- Every other opcode value is refused by name. -/
theorem decodeFields_of_illegal (op : Byte) (arg : Half) (h : legalOp op = false) :
    decodeFields op arg = .illegalOpcode op := by
  have h' : 0x11 < op.toNat := by simpa [legalOp] using h
  unfold decodeFields
  split <;> first | omega | rfl

/-- What is decoded to an operation has a legal opcode, the operation's. -/
theorem legal_of_decodeFields {op : Byte} {arg : Half} {i : Instr} (h : decodeFields op arg = .request i) :
    legalOp op = true ∧ opcode i = op := by
  cases hl : legalOp op with
  | true =>
    obtain ⟨j, hj, ho⟩ := decodeFields_of_legal op arg hl
    rw [hj] at h
    cases h
    exact ⟨rfl, ho⟩
  | false => rw [decodeFields_of_illegal op arg hl] at h; cases h

/-- The same of a whole word. -/
theorem legal_of_decode {w : Word} {i : Instr} (h : decode w = .request i) :
    legalOp (opField w) = true ∧ opcode i = opField w :=
  legal_of_decodeFields h

/-- Only opcode `0x01` is PRINT, and its length is the argument field (R74). -/
theorem print_of_decodeFields {op : Byte} {arg : Half} {len : Nat}
    (h : decodeFields op arg = .request (.print len)) : len = arg.toNat := by
  unfold decodeFields at h
  split at h <;> first | (injection h with h; injection h with h; exact h.symm) | cases h

end Sys2Proof

namespace Sys2Proof.Machine

/-- `n = floor(len / 80)` gives a start index that is never beyond the length (R144). -/
theorem startIndex_le (len : Nat) : startIndex len ≤ len := by
  unfold startIndex page
  split <;> omega

/-- At most 159 characters are sent (R145). -/
theorem sent_le (len : Nat) : len - startIndex len ≤ 159 := by
  unfold startIndex page
  split <;> omega

/-- Every step list fits `SEQ_STEP` (R26, R145). -/
theorem stepListOf_length (c : Cfg) (i : Instr) : (stepListOf c i).length ≤ 159 := by
  cases i with
  | print len => simpa [stepListOf, printSteps] using sent_le len
  | _ => simp [stepListOf, initSteps, clearSteps, homeSteps, setCursorSteps, sendDcr, sendDmr, scrollLeftSteps,
      scrollRightSteps]

end Sys2Proof.Machine
end

