-- ==== Sys2Proof/Laws/State.lean ====
section
/-! SUPPORT. One lemma per field per update of the state: what each accessor writes and what it leaves. -/

namespace Sys2Proof.Machine

variable (s : State)

/-! `setFrame` -/
@[simp] theorem State.setFrame_dcr (v : Byte) (m : Bool) : (s.setFrame v m).dcr = s.dcr := rfl
@[simp] theorem State.setFrame_dmr (v : Byte) (m : Bool) : (s.setFrame v m).dmr = s.dmr := rfl
@[simp] theorem State.setFrame_frv (v : Byte) (m : Bool) : (s.setFrame v m).frv = v := rfl
@[simp] theorem State.setFrame_frm (v : Byte) (m : Bool) : (s.setFrame v m).frm = m := rfl
@[simp] theorem State.setFrame_tmr (v : Byte) (m : Bool) : (s.setFrame v m).tmr = s.tmr := rfl
@[simp] theorem State.setFrame_seqStep (v : Byte) (m : Bool) : (s.setFrame v m).seqStep = s.seqStep := rfl
@[simp] theorem State.setFrame_txSub (v : Byte) (m : Bool) : (s.setFrame v m).txSub = s.txSub := rfl
@[simp] theorem State.setFrame_cur (v : Byte) (m : Bool) : (s.setFrame v m).cur = s.cur := rfl
@[simp] theorem State.setFrame_steps (v : Byte) (m : Bool) : (s.setFrame v m).steps = s.steps := rfl
@[simp] theorem State.setFrame_eng (v : Byte) (m : Bool) : (s.setFrame v m).eng = s.eng := rfl
@[simp] theorem State.setFrame_lock (v : Byte) (m : Bool) : (s.setFrame v m).lock = s.lock := rfl
@[simp] theorem State.setFrame_oe (v : Byte) (m : Bool) : (s.setFrame v m).oe = s.oe := rfl
@[simp] theorem State.setFrame_ports (v : Byte) (m : Bool) : (s.setFrame v m).ports = s.ports := rfl
@[simp] theorem State.setFrame_pins (v : Byte) (m : Bool) : (s.setFrame v m).pins = s.pins := rfl
@[simp] theorem State.setFrame_pw (v : Byte) (m : Bool) : (s.setFrame v m).pw = s.pw := rfl
@[simp] theorem State.setFrame_cfg (v : Byte) (m : Bool) : (s.setFrame v m).cfg = s.cfg := rfl
@[simp] theorem State.setFrame_tClkNs (v : Byte) (m : Bool) : (s.setFrame v m).tClkNs = s.tClkNs := rfl
@[simp] theorem State.setFrame_sched (v : Byte) (m : Bool) : (s.setFrame v m).sched = s.sched := rfl
@[simp] theorem State.setFrame_out (v : Byte) (m : Bool) : (s.setFrame v m).out = s.out := rfl
@[simp] theorem State.setFrame_free (v : Byte) (m : Bool) : (s.setFrame v m).free = s.free := rfl

/-! `setTmr` -/
@[simp] theorem State.setTmr_dcr (n : Nat) : (s.setTmr n).dcr = s.dcr := rfl
@[simp] theorem State.setTmr_dmr (n : Nat) : (s.setTmr n).dmr = s.dmr := rfl
@[simp] theorem State.setTmr_frv (n : Nat) : (s.setTmr n).frv = s.frv := rfl
@[simp] theorem State.setTmr_frm (n : Nat) : (s.setTmr n).frm = s.frm := rfl
@[simp] theorem State.setTmr_tmr (n : Nat) : (s.setTmr n).tmr = n := rfl
@[simp] theorem State.setTmr_seqStep (n : Nat) : (s.setTmr n).seqStep = s.seqStep := rfl
@[simp] theorem State.setTmr_txSub (n : Nat) : (s.setTmr n).txSub = s.txSub := rfl
@[simp] theorem State.setTmr_cur (n : Nat) : (s.setTmr n).cur = s.cur := rfl
@[simp] theorem State.setTmr_steps (n : Nat) : (s.setTmr n).steps = s.steps := rfl
@[simp] theorem State.setTmr_eng (n : Nat) : (s.setTmr n).eng = s.eng := rfl
@[simp] theorem State.setTmr_lock (n : Nat) : (s.setTmr n).lock = s.lock := rfl
@[simp] theorem State.setTmr_oe (n : Nat) : (s.setTmr n).oe = s.oe := rfl
@[simp] theorem State.setTmr_ports (n : Nat) : (s.setTmr n).ports = s.ports := rfl
@[simp] theorem State.setTmr_pins (n : Nat) : (s.setTmr n).pins = s.pins := rfl
@[simp] theorem State.setTmr_pw (n : Nat) : (s.setTmr n).pw = s.pw := rfl
@[simp] theorem State.setTmr_cfg (n : Nat) : (s.setTmr n).cfg = s.cfg := rfl
@[simp] theorem State.setTmr_tClkNs (n : Nat) : (s.setTmr n).tClkNs = s.tClkNs := rfl
@[simp] theorem State.setTmr_sched (n : Nat) : (s.setTmr n).sched = s.sched := rfl
@[simp] theorem State.setTmr_out (n : Nat) : (s.setTmr n).out = s.out := rfl
@[simp] theorem State.setTmr_free (n : Nat) : (s.setTmr n).free = s.free := rfl

/-! `setPos` -/
@[simp] theorem State.setPos_dcr (k : BitVec 8) (j : BitVec 4) : (s.setPos k j).dcr = s.dcr := rfl
@[simp] theorem State.setPos_dmr (k : BitVec 8) (j : BitVec 4) : (s.setPos k j).dmr = s.dmr := rfl
@[simp] theorem State.setPos_frv (k : BitVec 8) (j : BitVec 4) : (s.setPos k j).frv = s.frv := rfl
@[simp] theorem State.setPos_frm (k : BitVec 8) (j : BitVec 4) : (s.setPos k j).frm = s.frm := rfl
@[simp] theorem State.setPos_tmr (k : BitVec 8) (j : BitVec 4) : (s.setPos k j).tmr = s.tmr := rfl
@[simp] theorem State.setPos_seqStep (k : BitVec 8) (j : BitVec 4) : (s.setPos k j).seqStep = k := rfl
@[simp] theorem State.setPos_txSub (k : BitVec 8) (j : BitVec 4) : (s.setPos k j).txSub = j := rfl
@[simp] theorem State.setPos_cur (k : BitVec 8) (j : BitVec 4) : (s.setPos k j).cur = s.cur := rfl
@[simp] theorem State.setPos_steps (k : BitVec 8) (j : BitVec 4) : (s.setPos k j).steps = s.steps := rfl
@[simp] theorem State.setPos_eng (k : BitVec 8) (j : BitVec 4) : (s.setPos k j).eng = s.eng := rfl
@[simp] theorem State.setPos_lock (k : BitVec 8) (j : BitVec 4) : (s.setPos k j).lock = s.lock := rfl
@[simp] theorem State.setPos_oe (k : BitVec 8) (j : BitVec 4) : (s.setPos k j).oe = s.oe := rfl
@[simp] theorem State.setPos_ports (k : BitVec 8) (j : BitVec 4) : (s.setPos k j).ports = s.ports := rfl
@[simp] theorem State.setPos_pins (k : BitVec 8) (j : BitVec 4) : (s.setPos k j).pins = s.pins := rfl
@[simp] theorem State.setPos_pw (k : BitVec 8) (j : BitVec 4) : (s.setPos k j).pw = s.pw := rfl
@[simp] theorem State.setPos_cfg (k : BitVec 8) (j : BitVec 4) : (s.setPos k j).cfg = s.cfg := rfl
@[simp] theorem State.setPos_tClkNs (k : BitVec 8) (j : BitVec 4) : (s.setPos k j).tClkNs = s.tClkNs := rfl
@[simp] theorem State.setPos_sched (k : BitVec 8) (j : BitVec 4) : (s.setPos k j).sched = s.sched := rfl
@[simp] theorem State.setPos_out (k : BitVec 8) (j : BitVec 4) : (s.setPos k j).out = s.out := rfl
@[simp] theorem State.setPos_free (k : BitVec 8) (j : BitVec 4) : (s.setPos k j).free = s.free := rfl

/-! `setCur` -/
@[simp] theorem State.setCur_dcr (c : Cur) : (s.setCur c).dcr = s.dcr := rfl
@[simp] theorem State.setCur_dmr (c : Cur) : (s.setCur c).dmr = s.dmr := rfl
@[simp] theorem State.setCur_frv (c : Cur) : (s.setCur c).frv = s.frv := rfl
@[simp] theorem State.setCur_frm (c : Cur) : (s.setCur c).frm = s.frm := rfl
@[simp] theorem State.setCur_tmr (c : Cur) : (s.setCur c).tmr = s.tmr := rfl
@[simp] theorem State.setCur_seqStep (c : Cur) : (s.setCur c).seqStep = s.seqStep := rfl
@[simp] theorem State.setCur_txSub (c : Cur) : (s.setCur c).txSub = s.txSub := rfl
@[simp] theorem State.setCur_cur (c : Cur) : (s.setCur c).cur = c := rfl
@[simp] theorem State.setCur_steps (c : Cur) : (s.setCur c).steps = s.steps := rfl
@[simp] theorem State.setCur_eng (c : Cur) : (s.setCur c).eng = s.eng := rfl
@[simp] theorem State.setCur_lock (c : Cur) : (s.setCur c).lock = s.lock := rfl
@[simp] theorem State.setCur_oe (c : Cur) : (s.setCur c).oe = s.oe := rfl
@[simp] theorem State.setCur_ports (c : Cur) : (s.setCur c).ports = s.ports := rfl
@[simp] theorem State.setCur_pins (c : Cur) : (s.setCur c).pins = s.pins := rfl
@[simp] theorem State.setCur_pw (c : Cur) : (s.setCur c).pw = s.pw := rfl
@[simp] theorem State.setCur_cfg (c : Cur) : (s.setCur c).cfg = s.cfg := rfl
@[simp] theorem State.setCur_tClkNs (c : Cur) : (s.setCur c).tClkNs = s.tClkNs := rfl
@[simp] theorem State.setCur_sched (c : Cur) : (s.setCur c).sched = s.sched := rfl
@[simp] theorem State.setCur_out (c : Cur) : (s.setCur c).out = s.out := rfl
@[simp] theorem State.setCur_free (c : Cur) : (s.setCur c).free = s.free := rfl

/-! `endCur` -/
@[simp] theorem State.endCur_dcr : (s.endCur).dcr = s.dcr := rfl
@[simp] theorem State.endCur_dmr : (s.endCur).dmr = s.dmr := rfl
@[simp] theorem State.endCur_frv : (s.endCur).frv = s.frv := rfl
@[simp] theorem State.endCur_frm : (s.endCur).frm = s.frm := rfl
@[simp] theorem State.endCur_tmr : (s.endCur).tmr = s.tmr := rfl
@[simp] theorem State.endCur_seqStep : (s.endCur).seqStep = s.seqStep := rfl
@[simp] theorem State.endCur_txSub : (s.endCur).txSub = s.txSub := rfl
@[simp] theorem State.endCur_cur : (s.endCur).cur = { s.cur with valid := false } := rfl
@[simp] theorem State.endCur_steps : (s.endCur).steps = s.steps := rfl
@[simp] theorem State.endCur_eng : (s.endCur).eng = s.eng := rfl
@[simp] theorem State.endCur_lock : (s.endCur).lock = s.lock := rfl
@[simp] theorem State.endCur_oe : (s.endCur).oe = s.oe := rfl
@[simp] theorem State.endCur_ports : (s.endCur).ports = s.ports := rfl
@[simp] theorem State.endCur_pins : (s.endCur).pins = s.pins := rfl
@[simp] theorem State.endCur_pw : (s.endCur).pw = s.pw := rfl
@[simp] theorem State.endCur_cfg : (s.endCur).cfg = s.cfg := rfl
@[simp] theorem State.endCur_tClkNs : (s.endCur).tClkNs = s.tClkNs := rfl
@[simp] theorem State.endCur_sched : (s.endCur).sched = s.sched := rfl
@[simp] theorem State.endCur_out : (s.endCur).out = s.out := rfl
@[simp] theorem State.endCur_free : (s.endCur).free = s.free := rfl

/-! `setStart` -/
@[simp] theorem State.setStart_dcr (i : Half) : (s.setStart i).dcr = s.dcr := rfl
@[simp] theorem State.setStart_dmr (i : Half) : (s.setStart i).dmr = s.dmr := rfl
@[simp] theorem State.setStart_frv (i : Half) : (s.setStart i).frv = s.frv := rfl
@[simp] theorem State.setStart_frm (i : Half) : (s.setStart i).frm = s.frm := rfl
@[simp] theorem State.setStart_tmr (i : Half) : (s.setStart i).tmr = s.tmr := rfl
@[simp] theorem State.setStart_seqStep (i : Half) : (s.setStart i).seqStep = s.seqStep := rfl
@[simp] theorem State.setStart_txSub (i : Half) : (s.setStart i).txSub = s.txSub := rfl
@[simp] theorem State.setStart_cur (i : Half) : (s.setStart i).cur = { s.cur with start := i } := rfl
@[simp] theorem State.setStart_steps (i : Half) : (s.setStart i).steps = s.steps := rfl
@[simp] theorem State.setStart_eng (i : Half) : (s.setStart i).eng = s.eng := rfl
@[simp] theorem State.setStart_lock (i : Half) : (s.setStart i).lock = s.lock := rfl
@[simp] theorem State.setStart_oe (i : Half) : (s.setStart i).oe = s.oe := rfl
@[simp] theorem State.setStart_ports (i : Half) : (s.setStart i).ports = s.ports := rfl
@[simp] theorem State.setStart_pins (i : Half) : (s.setStart i).pins = s.pins := rfl
@[simp] theorem State.setStart_pw (i : Half) : (s.setStart i).pw = s.pw := rfl
@[simp] theorem State.setStart_cfg (i : Half) : (s.setStart i).cfg = s.cfg := rfl
@[simp] theorem State.setStart_tClkNs (i : Half) : (s.setStart i).tClkNs = s.tClkNs := rfl
@[simp] theorem State.setStart_sched (i : Half) : (s.setStart i).sched = s.sched := rfl
@[simp] theorem State.setStart_out (i : Half) : (s.setStart i).out = s.out := rfl
@[simp] theorem State.setStart_free (i : Half) : (s.setStart i).free = s.free := rfl

/-! `setSteps` -/
@[simp] theorem State.setSteps_dcr (l : List MacroStep) : (s.setSteps l).dcr = s.dcr := rfl
@[simp] theorem State.setSteps_dmr (l : List MacroStep) : (s.setSteps l).dmr = s.dmr := rfl
@[simp] theorem State.setSteps_frv (l : List MacroStep) : (s.setSteps l).frv = s.frv := rfl
@[simp] theorem State.setSteps_frm (l : List MacroStep) : (s.setSteps l).frm = s.frm := rfl
@[simp] theorem State.setSteps_tmr (l : List MacroStep) : (s.setSteps l).tmr = s.tmr := rfl
@[simp] theorem State.setSteps_seqStep (l : List MacroStep) : (s.setSteps l).seqStep = s.seqStep := rfl
@[simp] theorem State.setSteps_txSub (l : List MacroStep) : (s.setSteps l).txSub = s.txSub := rfl
@[simp] theorem State.setSteps_cur (l : List MacroStep) : (s.setSteps l).cur = s.cur := rfl
@[simp] theorem State.setSteps_steps (l : List MacroStep) : (s.setSteps l).steps = l := rfl
@[simp] theorem State.setSteps_eng (l : List MacroStep) : (s.setSteps l).eng = s.eng := rfl
@[simp] theorem State.setSteps_lock (l : List MacroStep) : (s.setSteps l).lock = s.lock := rfl
@[simp] theorem State.setSteps_oe (l : List MacroStep) : (s.setSteps l).oe = s.oe := rfl
@[simp] theorem State.setSteps_ports (l : List MacroStep) : (s.setSteps l).ports = s.ports := rfl
@[simp] theorem State.setSteps_pins (l : List MacroStep) : (s.setSteps l).pins = s.pins := rfl
@[simp] theorem State.setSteps_pw (l : List MacroStep) : (s.setSteps l).pw = s.pw := rfl
@[simp] theorem State.setSteps_cfg (l : List MacroStep) : (s.setSteps l).cfg = s.cfg := rfl
@[simp] theorem State.setSteps_tClkNs (l : List MacroStep) : (s.setSteps l).tClkNs = s.tClkNs := rfl
@[simp] theorem State.setSteps_sched (l : List MacroStep) : (s.setSteps l).sched = s.sched := rfl
@[simp] theorem State.setSteps_out (l : List MacroStep) : (s.setSteps l).out = s.out := rfl
@[simp] theorem State.setSteps_free (l : List MacroStep) : (s.setSteps l).free = s.free := rfl

/-! `setEng` -/
@[simp] theorem State.setEng_dcr (e : Phase) : (s.setEng e).dcr = s.dcr := rfl
@[simp] theorem State.setEng_dmr (e : Phase) : (s.setEng e).dmr = s.dmr := rfl
@[simp] theorem State.setEng_frv (e : Phase) : (s.setEng e).frv = s.frv := rfl
@[simp] theorem State.setEng_frm (e : Phase) : (s.setEng e).frm = s.frm := rfl
@[simp] theorem State.setEng_tmr (e : Phase) : (s.setEng e).tmr = s.tmr := rfl
@[simp] theorem State.setEng_seqStep (e : Phase) : (s.setEng e).seqStep = s.seqStep := rfl
@[simp] theorem State.setEng_txSub (e : Phase) : (s.setEng e).txSub = s.txSub := rfl
@[simp] theorem State.setEng_cur (e : Phase) : (s.setEng e).cur = s.cur := rfl
@[simp] theorem State.setEng_steps (e : Phase) : (s.setEng e).steps = s.steps := rfl
@[simp] theorem State.setEng_eng (e : Phase) : (s.setEng e).eng = e := rfl
@[simp] theorem State.setEng_lock (e : Phase) : (s.setEng e).lock = s.lock := rfl
@[simp] theorem State.setEng_oe (e : Phase) : (s.setEng e).oe = s.oe := rfl
@[simp] theorem State.setEng_ports (e : Phase) : (s.setEng e).ports = s.ports := rfl
@[simp] theorem State.setEng_pins (e : Phase) : (s.setEng e).pins = s.pins := rfl
@[simp] theorem State.setEng_pw (e : Phase) : (s.setEng e).pw = s.pw := rfl
@[simp] theorem State.setEng_cfg (e : Phase) : (s.setEng e).cfg = s.cfg := rfl
@[simp] theorem State.setEng_tClkNs (e : Phase) : (s.setEng e).tClkNs = s.tClkNs := rfl
@[simp] theorem State.setEng_sched (e : Phase) : (s.setEng e).sched = s.sched := rfl
@[simp] theorem State.setEng_out (e : Phase) : (s.setEng e).out = s.out := rfl
@[simp] theorem State.setEng_free (e : Phase) : (s.setEng e).free = s.free := rfl

/-! `setLock` -/
@[simp] theorem State.setLock_dcr (l : Option Nat) : (s.setLock l).dcr = s.dcr := rfl
@[simp] theorem State.setLock_dmr (l : Option Nat) : (s.setLock l).dmr = s.dmr := rfl
@[simp] theorem State.setLock_frv (l : Option Nat) : (s.setLock l).frv = s.frv := rfl
@[simp] theorem State.setLock_frm (l : Option Nat) : (s.setLock l).frm = s.frm := rfl
@[simp] theorem State.setLock_tmr (l : Option Nat) : (s.setLock l).tmr = s.tmr := rfl
@[simp] theorem State.setLock_seqStep (l : Option Nat) : (s.setLock l).seqStep = s.seqStep := rfl
@[simp] theorem State.setLock_txSub (l : Option Nat) : (s.setLock l).txSub = s.txSub := rfl
@[simp] theorem State.setLock_cur (l : Option Nat) : (s.setLock l).cur = s.cur := rfl
@[simp] theorem State.setLock_steps (l : Option Nat) : (s.setLock l).steps = s.steps := rfl
@[simp] theorem State.setLock_eng (l : Option Nat) : (s.setLock l).eng = s.eng := rfl
@[simp] theorem State.setLock_lock (l : Option Nat) : (s.setLock l).lock = l := rfl
@[simp] theorem State.setLock_oe (l : Option Nat) : (s.setLock l).oe = s.oe := rfl
@[simp] theorem State.setLock_ports (l : Option Nat) : (s.setLock l).ports = s.ports := rfl
@[simp] theorem State.setLock_pins (l : Option Nat) : (s.setLock l).pins = s.pins := rfl
@[simp] theorem State.setLock_pw (l : Option Nat) : (s.setLock l).pw = s.pw := rfl
@[simp] theorem State.setLock_cfg (l : Option Nat) : (s.setLock l).cfg = s.cfg := rfl
@[simp] theorem State.setLock_tClkNs (l : Option Nat) : (s.setLock l).tClkNs = s.tClkNs := rfl
@[simp] theorem State.setLock_sched (l : Option Nat) : (s.setLock l).sched = s.sched := rfl
@[simp] theorem State.setLock_out (l : Option Nat) : (s.setLock l).out = s.out := rfl
@[simp] theorem State.setLock_free (l : Option Nat) : (s.setLock l).free = s.free := rfl

/-! `setOe` -/
@[simp] theorem State.setOe_dcr (b : Bool) : (s.setOe b).dcr = s.dcr := rfl
@[simp] theorem State.setOe_dmr (b : Bool) : (s.setOe b).dmr = s.dmr := rfl
@[simp] theorem State.setOe_frv (b : Bool) : (s.setOe b).frv = s.frv := rfl
@[simp] theorem State.setOe_frm (b : Bool) : (s.setOe b).frm = s.frm := rfl
@[simp] theorem State.setOe_tmr (b : Bool) : (s.setOe b).tmr = s.tmr := rfl
@[simp] theorem State.setOe_seqStep (b : Bool) : (s.setOe b).seqStep = s.seqStep := rfl
@[simp] theorem State.setOe_txSub (b : Bool) : (s.setOe b).txSub = s.txSub := rfl
@[simp] theorem State.setOe_cur (b : Bool) : (s.setOe b).cur = s.cur := rfl
@[simp] theorem State.setOe_steps (b : Bool) : (s.setOe b).steps = s.steps := rfl
@[simp] theorem State.setOe_eng (b : Bool) : (s.setOe b).eng = s.eng := rfl
@[simp] theorem State.setOe_lock (b : Bool) : (s.setOe b).lock = s.lock := rfl
@[simp] theorem State.setOe_oe (b : Bool) : (s.setOe b).oe = b := rfl
@[simp] theorem State.setOe_ports (b : Bool) : (s.setOe b).ports = s.ports := rfl
@[simp] theorem State.setOe_pins (b : Bool) : (s.setOe b).pins = s.pins := rfl
@[simp] theorem State.setOe_pw (b : Bool) : (s.setOe b).pw = s.pw := rfl
@[simp] theorem State.setOe_cfg (b : Bool) : (s.setOe b).cfg = s.cfg := rfl
@[simp] theorem State.setOe_tClkNs (b : Bool) : (s.setOe b).tClkNs = s.tClkNs := rfl
@[simp] theorem State.setOe_sched (b : Bool) : (s.setOe b).sched = s.sched := rfl
@[simp] theorem State.setOe_out (b : Bool) : (s.setOe b).out = s.out := rfl
@[simp] theorem State.setOe_free (b : Bool) : (s.setOe b).free = s.free := rfl

/-! `setPend` -/
@[simp] theorem State.setPend_dcr (p : Nat) (x : Pend) : (s.setPend p x).dcr = s.dcr := rfl
@[simp] theorem State.setPend_dmr (p : Nat) (x : Pend) : (s.setPend p x).dmr = s.dmr := rfl
@[simp] theorem State.setPend_frv (p : Nat) (x : Pend) : (s.setPend p x).frv = s.frv := rfl
@[simp] theorem State.setPend_frm (p : Nat) (x : Pend) : (s.setPend p x).frm = s.frm := rfl
@[simp] theorem State.setPend_tmr (p : Nat) (x : Pend) : (s.setPend p x).tmr = s.tmr := rfl
@[simp] theorem State.setPend_seqStep (p : Nat) (x : Pend) : (s.setPend p x).seqStep = s.seqStep := rfl
@[simp] theorem State.setPend_txSub (p : Nat) (x : Pend) : (s.setPend p x).txSub = s.txSub := rfl
@[simp] theorem State.setPend_cur (p : Nat) (x : Pend) : (s.setPend p x).cur = s.cur := rfl
@[simp] theorem State.setPend_steps (p : Nat) (x : Pend) : (s.setPend p x).steps = s.steps := rfl
@[simp] theorem State.setPend_eng (p : Nat) (x : Pend) : (s.setPend p x).eng = s.eng := rfl
@[simp] theorem State.setPend_lock (p : Nat) (x : Pend) : (s.setPend p x).lock = s.lock := rfl
@[simp] theorem State.setPend_oe (p : Nat) (x : Pend) : (s.setPend p x).oe = s.oe := rfl
@[simp] theorem State.setPend_ports (p : Nat) (x : Pend) : (s.setPend p x).ports = s.ports.modify p fun q => { q with pend := x } := rfl
@[simp] theorem State.setPend_pins (p : Nat) (x : Pend) : (s.setPend p x).pins = s.pins := rfl
@[simp] theorem State.setPend_pw (p : Nat) (x : Pend) : (s.setPend p x).pw = s.pw := rfl
@[simp] theorem State.setPend_cfg (p : Nat) (x : Pend) : (s.setPend p x).cfg = s.cfg := rfl
@[simp] theorem State.setPend_tClkNs (p : Nat) (x : Pend) : (s.setPend p x).tClkNs = s.tClkNs := rfl
@[simp] theorem State.setPend_sched (p : Nat) (x : Pend) : (s.setPend p x).sched = s.sched := rfl
@[simp] theorem State.setPend_out (p : Nat) (x : Pend) : (s.setPend p x).out = s.out := rfl
@[simp] theorem State.setPend_free (p : Nat) (x : Pend) : (s.setPend p x).free = s.free := rfl

/-! `setText` -/
@[simp] theorem State.setText_dcr (p : Nat) (i : Half) (b : Byte) : (s.setText p i b).dcr = s.dcr := rfl
@[simp] theorem State.setText_dmr (p : Nat) (i : Half) (b : Byte) : (s.setText p i b).dmr = s.dmr := rfl
@[simp] theorem State.setText_frv (p : Nat) (i : Half) (b : Byte) : (s.setText p i b).frv = s.frv := rfl
@[simp] theorem State.setText_frm (p : Nat) (i : Half) (b : Byte) : (s.setText p i b).frm = s.frm := rfl
@[simp] theorem State.setText_tmr (p : Nat) (i : Half) (b : Byte) : (s.setText p i b).tmr = s.tmr := rfl
@[simp] theorem State.setText_seqStep (p : Nat) (i : Half) (b : Byte) : (s.setText p i b).seqStep = s.seqStep := rfl
@[simp] theorem State.setText_txSub (p : Nat) (i : Half) (b : Byte) : (s.setText p i b).txSub = s.txSub := rfl
@[simp] theorem State.setText_cur (p : Nat) (i : Half) (b : Byte) : (s.setText p i b).cur = s.cur := rfl
@[simp] theorem State.setText_steps (p : Nat) (i : Half) (b : Byte) : (s.setText p i b).steps = s.steps := rfl
@[simp] theorem State.setText_eng (p : Nat) (i : Half) (b : Byte) : (s.setText p i b).eng = s.eng := rfl
@[simp] theorem State.setText_lock (p : Nat) (i : Half) (b : Byte) : (s.setText p i b).lock = s.lock := rfl
@[simp] theorem State.setText_oe (p : Nat) (i : Half) (b : Byte) : (s.setText p i b).oe = s.oe := rfl
@[simp] theorem State.setText_ports (p : Nat) (i : Half) (b : Byte) : (s.setText p i b).ports = s.ports.modify p fun q => { q with txt := Memory.write q.txt i.toNat b } := rfl
@[simp] theorem State.setText_pins (p : Nat) (i : Half) (b : Byte) : (s.setText p i b).pins = s.pins := rfl
@[simp] theorem State.setText_pw (p : Nat) (i : Half) (b : Byte) : (s.setText p i b).pw = s.pw := rfl
@[simp] theorem State.setText_cfg (p : Nat) (i : Half) (b : Byte) : (s.setText p i b).cfg = s.cfg := rfl
@[simp] theorem State.setText_tClkNs (p : Nat) (i : Half) (b : Byte) : (s.setText p i b).tClkNs = s.tClkNs := rfl
@[simp] theorem State.setText_sched (p : Nat) (i : Half) (b : Byte) : (s.setText p i b).sched = s.sched := rfl
@[simp] theorem State.setText_out (p : Nat) (i : Half) (b : Byte) : (s.setText p i b).out = s.out := rfl
@[simp] theorem State.setText_free (p : Nat) (i : Half) (b : Byte) : (s.setText p i b).free = s.free := rfl

/-! `setPin` -/
@[simp] theorem State.setPin_dcr (p : Pin) (b : Bool) : (s.setPin p b).dcr = s.dcr := rfl
@[simp] theorem State.setPin_dmr (p : Pin) (b : Bool) : (s.setPin p b).dmr = s.dmr := rfl
@[simp] theorem State.setPin_frv (p : Pin) (b : Bool) : (s.setPin p b).frv = s.frv := rfl
@[simp] theorem State.setPin_frm (p : Pin) (b : Bool) : (s.setPin p b).frm = s.frm := rfl
@[simp] theorem State.setPin_tmr (p : Pin) (b : Bool) : (s.setPin p b).tmr = s.tmr := rfl
@[simp] theorem State.setPin_seqStep (p : Pin) (b : Bool) : (s.setPin p b).seqStep = s.seqStep := rfl
@[simp] theorem State.setPin_txSub (p : Pin) (b : Bool) : (s.setPin p b).txSub = s.txSub := rfl
@[simp] theorem State.setPin_cur (p : Pin) (b : Bool) : (s.setPin p b).cur = s.cur := rfl
@[simp] theorem State.setPin_steps (p : Pin) (b : Bool) : (s.setPin p b).steps = s.steps := rfl
@[simp] theorem State.setPin_eng (p : Pin) (b : Bool) : (s.setPin p b).eng = s.eng := rfl
@[simp] theorem State.setPin_lock (p : Pin) (b : Bool) : (s.setPin p b).lock = s.lock := rfl
@[simp] theorem State.setPin_oe (p : Pin) (b : Bool) : (s.setPin p b).oe = s.oe := rfl
@[simp] theorem State.setPin_ports (p : Pin) (b : Bool) : (s.setPin p b).ports = s.ports := rfl
@[simp] theorem State.setPin_pins (p : Pin) (b : Bool) : (s.setPin p b).pins = s.pins.set p b := rfl
@[simp] theorem State.setPin_pw (p : Pin) (b : Bool) : (s.setPin p b).pw = s.pw := rfl
@[simp] theorem State.setPin_cfg (p : Pin) (b : Bool) : (s.setPin p b).cfg = s.cfg := rfl
@[simp] theorem State.setPin_tClkNs (p : Pin) (b : Bool) : (s.setPin p b).tClkNs = s.tClkNs := rfl
@[simp] theorem State.setPin_sched (p : Pin) (b : Bool) : (s.setPin p b).sched = s.sched := rfl
@[simp] theorem State.setPin_out (p : Pin) (b : Bool) : (s.setPin p b).out = s.out := rfl
@[simp] theorem State.setPin_free (p : Pin) (b : Bool) : (s.setPin p b).free = s.free := rfl

/-! `setPw` -/
@[simp] theorem State.setPw_dcr (w : Option (Pin × Bool)) : (s.setPw w).dcr = s.dcr := rfl
@[simp] theorem State.setPw_dmr (w : Option (Pin × Bool)) : (s.setPw w).dmr = s.dmr := rfl
@[simp] theorem State.setPw_frv (w : Option (Pin × Bool)) : (s.setPw w).frv = s.frv := rfl
@[simp] theorem State.setPw_frm (w : Option (Pin × Bool)) : (s.setPw w).frm = s.frm := rfl
@[simp] theorem State.setPw_tmr (w : Option (Pin × Bool)) : (s.setPw w).tmr = s.tmr := rfl
@[simp] theorem State.setPw_seqStep (w : Option (Pin × Bool)) : (s.setPw w).seqStep = s.seqStep := rfl
@[simp] theorem State.setPw_txSub (w : Option (Pin × Bool)) : (s.setPw w).txSub = s.txSub := rfl
@[simp] theorem State.setPw_cur (w : Option (Pin × Bool)) : (s.setPw w).cur = s.cur := rfl
@[simp] theorem State.setPw_steps (w : Option (Pin × Bool)) : (s.setPw w).steps = s.steps := rfl
@[simp] theorem State.setPw_eng (w : Option (Pin × Bool)) : (s.setPw w).eng = s.eng := rfl
@[simp] theorem State.setPw_lock (w : Option (Pin × Bool)) : (s.setPw w).lock = s.lock := rfl
@[simp] theorem State.setPw_oe (w : Option (Pin × Bool)) : (s.setPw w).oe = s.oe := rfl
@[simp] theorem State.setPw_ports (w : Option (Pin × Bool)) : (s.setPw w).ports = s.ports := rfl
@[simp] theorem State.setPw_pins (w : Option (Pin × Bool)) : (s.setPw w).pins = s.pins := rfl
@[simp] theorem State.setPw_pw (w : Option (Pin × Bool)) : (s.setPw w).pw = w := rfl
@[simp] theorem State.setPw_cfg (w : Option (Pin × Bool)) : (s.setPw w).cfg = s.cfg := rfl
@[simp] theorem State.setPw_tClkNs (w : Option (Pin × Bool)) : (s.setPw w).tClkNs = s.tClkNs := rfl
@[simp] theorem State.setPw_sched (w : Option (Pin × Bool)) : (s.setPw w).sched = s.sched := rfl
@[simp] theorem State.setPw_out (w : Option (Pin × Bool)) : (s.setPw w).out = s.out := rfl
@[simp] theorem State.setPw_free (w : Option (Pin × Bool)) : (s.setPw w).free = s.free := rfl

/-! `emit` -/
@[simp] theorem State.emit_dcr (e : Event) : (s.emit e).dcr = s.dcr := rfl
@[simp] theorem State.emit_dmr (e : Event) : (s.emit e).dmr = s.dmr := rfl
@[simp] theorem State.emit_frv (e : Event) : (s.emit e).frv = s.frv := rfl
@[simp] theorem State.emit_frm (e : Event) : (s.emit e).frm = s.frm := rfl
@[simp] theorem State.emit_tmr (e : Event) : (s.emit e).tmr = s.tmr := rfl
@[simp] theorem State.emit_seqStep (e : Event) : (s.emit e).seqStep = s.seqStep := rfl
@[simp] theorem State.emit_txSub (e : Event) : (s.emit e).txSub = s.txSub := rfl
@[simp] theorem State.emit_cur (e : Event) : (s.emit e).cur = s.cur := rfl
@[simp] theorem State.emit_steps (e : Event) : (s.emit e).steps = s.steps := rfl
@[simp] theorem State.emit_eng (e : Event) : (s.emit e).eng = s.eng := rfl
@[simp] theorem State.emit_lock (e : Event) : (s.emit e).lock = s.lock := rfl
@[simp] theorem State.emit_oe (e : Event) : (s.emit e).oe = s.oe := rfl
@[simp] theorem State.emit_ports (e : Event) : (s.emit e).ports = s.ports := rfl
@[simp] theorem State.emit_pins (e : Event) : (s.emit e).pins = s.pins := rfl
@[simp] theorem State.emit_pw (e : Event) : (s.emit e).pw = s.pw := rfl
@[simp] theorem State.emit_cfg (e : Event) : (s.emit e).cfg = s.cfg := rfl
@[simp] theorem State.emit_tClkNs (e : Event) : (s.emit e).tClkNs = s.tClkNs := rfl
@[simp] theorem State.emit_sched (e : Event) : (s.emit e).sched = s.sched := rfl
@[simp] theorem State.emit_out (e : Event) : (s.emit e).out = s.out ++ [e] := rfl
@[simp] theorem State.emit_free (e : Event) : (s.emit e).free = s.free := rfl

/-! `clearOut` -/
@[simp] theorem State.clearOut_dcr : (s.clearOut).dcr = s.dcr := rfl
@[simp] theorem State.clearOut_dmr : (s.clearOut).dmr = s.dmr := rfl
@[simp] theorem State.clearOut_frv : (s.clearOut).frv = s.frv := rfl
@[simp] theorem State.clearOut_frm : (s.clearOut).frm = s.frm := rfl
@[simp] theorem State.clearOut_tmr : (s.clearOut).tmr = s.tmr := rfl
@[simp] theorem State.clearOut_seqStep : (s.clearOut).seqStep = s.seqStep := rfl
@[simp] theorem State.clearOut_txSub : (s.clearOut).txSub = s.txSub := rfl
@[simp] theorem State.clearOut_cur : (s.clearOut).cur = s.cur := rfl
@[simp] theorem State.clearOut_steps : (s.clearOut).steps = s.steps := rfl
@[simp] theorem State.clearOut_eng : (s.clearOut).eng = s.eng := rfl
@[simp] theorem State.clearOut_lock : (s.clearOut).lock = s.lock := rfl
@[simp] theorem State.clearOut_oe : (s.clearOut).oe = s.oe := rfl
@[simp] theorem State.clearOut_ports : (s.clearOut).ports = s.ports := rfl
@[simp] theorem State.clearOut_pins : (s.clearOut).pins = s.pins := rfl
@[simp] theorem State.clearOut_pw : (s.clearOut).pw = s.pw := rfl
@[simp] theorem State.clearOut_cfg : (s.clearOut).cfg = s.cfg := rfl
@[simp] theorem State.clearOut_tClkNs : (s.clearOut).tClkNs = s.tClkNs := rfl
@[simp] theorem State.clearOut_sched : (s.clearOut).sched = s.sched := rfl
@[simp] theorem State.clearOut_out : (s.clearOut).out = [] := rfl
@[simp] theorem State.clearOut_free : (s.clearOut).free = s.free := rfl

/-! `setSched` -/
@[simp] theorem State.setSched_dcr (l : List Move) : (s.setSched l).dcr = s.dcr := rfl
@[simp] theorem State.setSched_dmr (l : List Move) : (s.setSched l).dmr = s.dmr := rfl
@[simp] theorem State.setSched_frv (l : List Move) : (s.setSched l).frv = s.frv := rfl
@[simp] theorem State.setSched_frm (l : List Move) : (s.setSched l).frm = s.frm := rfl
@[simp] theorem State.setSched_tmr (l : List Move) : (s.setSched l).tmr = s.tmr := rfl
@[simp] theorem State.setSched_seqStep (l : List Move) : (s.setSched l).seqStep = s.seqStep := rfl
@[simp] theorem State.setSched_txSub (l : List Move) : (s.setSched l).txSub = s.txSub := rfl
@[simp] theorem State.setSched_cur (l : List Move) : (s.setSched l).cur = s.cur := rfl
@[simp] theorem State.setSched_steps (l : List Move) : (s.setSched l).steps = s.steps := rfl
@[simp] theorem State.setSched_eng (l : List Move) : (s.setSched l).eng = s.eng := rfl
@[simp] theorem State.setSched_lock (l : List Move) : (s.setSched l).lock = s.lock := rfl
@[simp] theorem State.setSched_oe (l : List Move) : (s.setSched l).oe = s.oe := rfl
@[simp] theorem State.setSched_ports (l : List Move) : (s.setSched l).ports = s.ports := rfl
@[simp] theorem State.setSched_pins (l : List Move) : (s.setSched l).pins = s.pins := rfl
@[simp] theorem State.setSched_pw (l : List Move) : (s.setSched l).pw = s.pw := rfl
@[simp] theorem State.setSched_cfg (l : List Move) : (s.setSched l).cfg = s.cfg := rfl
@[simp] theorem State.setSched_tClkNs (l : List Move) : (s.setSched l).tClkNs = s.tClkNs := rfl
@[simp] theorem State.setSched_sched (l : List Move) : (s.setSched l).sched = l := rfl
@[simp] theorem State.setSched_out (l : List Move) : (s.setSched l).out = s.out := rfl
@[simp] theorem State.setSched_free (l : List Move) : (s.setSched l).free = s.free := rfl

/-! `nextFree` -/
@[simp] theorem State.nextFree_dcr : (s.nextFree).dcr = s.dcr := rfl
@[simp] theorem State.nextFree_dmr : (s.nextFree).dmr = s.dmr := rfl
@[simp] theorem State.nextFree_frv : (s.nextFree).frv = s.frv := rfl
@[simp] theorem State.nextFree_frm : (s.nextFree).frm = s.frm := rfl
@[simp] theorem State.nextFree_tmr : (s.nextFree).tmr = s.tmr := rfl
@[simp] theorem State.nextFree_seqStep : (s.nextFree).seqStep = s.seqStep := rfl
@[simp] theorem State.nextFree_txSub : (s.nextFree).txSub = s.txSub := rfl
@[simp] theorem State.nextFree_cur : (s.nextFree).cur = s.cur := rfl
@[simp] theorem State.nextFree_steps : (s.nextFree).steps = s.steps := rfl
@[simp] theorem State.nextFree_eng : (s.nextFree).eng = s.eng := rfl
@[simp] theorem State.nextFree_lock : (s.nextFree).lock = s.lock := rfl
@[simp] theorem State.nextFree_oe : (s.nextFree).oe = s.oe := rfl
@[simp] theorem State.nextFree_ports : (s.nextFree).ports = s.ports := rfl
@[simp] theorem State.nextFree_pins : (s.nextFree).pins = s.pins := rfl
@[simp] theorem State.nextFree_pw : (s.nextFree).pw = s.pw := rfl
@[simp] theorem State.nextFree_cfg : (s.nextFree).cfg = s.cfg := rfl
@[simp] theorem State.nextFree_tClkNs : (s.nextFree).tClkNs = s.tClkNs := rfl
@[simp] theorem State.nextFree_sched : (s.nextFree).sched = s.sched := rfl
@[simp] theorem State.nextFree_out : (s.nextFree).out = s.out := rfl
@[simp] theorem State.nextFree_free : (s.nextFree).free = s.free + 1 := rfl

/-! `setReg` -/
@[simp] theorem State.setReg_frv (r : Reg) (v : Byte) : (s.setReg r v).frv = s.frv := by cases r <;> rfl
@[simp] theorem State.setReg_frm (r : Reg) (v : Byte) : (s.setReg r v).frm = s.frm := by cases r <;> rfl
@[simp] theorem State.setReg_tmr (r : Reg) (v : Byte) : (s.setReg r v).tmr = s.tmr := by cases r <;> rfl
@[simp] theorem State.setReg_seqStep (r : Reg) (v : Byte) : (s.setReg r v).seqStep = s.seqStep := by cases r <;> rfl
@[simp] theorem State.setReg_txSub (r : Reg) (v : Byte) : (s.setReg r v).txSub = s.txSub := by cases r <;> rfl
@[simp] theorem State.setReg_cur (r : Reg) (v : Byte) : (s.setReg r v).cur = s.cur := by cases r <;> rfl
@[simp] theorem State.setReg_steps (r : Reg) (v : Byte) : (s.setReg r v).steps = s.steps := by cases r <;> rfl
@[simp] theorem State.setReg_eng (r : Reg) (v : Byte) : (s.setReg r v).eng = s.eng := by cases r <;> rfl
@[simp] theorem State.setReg_lock (r : Reg) (v : Byte) : (s.setReg r v).lock = s.lock := by cases r <;> rfl
@[simp] theorem State.setReg_oe (r : Reg) (v : Byte) : (s.setReg r v).oe = s.oe := by cases r <;> rfl
@[simp] theorem State.setReg_ports (r : Reg) (v : Byte) : (s.setReg r v).ports = s.ports := by cases r <;> rfl
@[simp] theorem State.setReg_pins (r : Reg) (v : Byte) : (s.setReg r v).pins = s.pins := by cases r <;> rfl
@[simp] theorem State.setReg_pw (r : Reg) (v : Byte) : (s.setReg r v).pw = s.pw := by cases r <;> rfl
@[simp] theorem State.setReg_cfg (r : Reg) (v : Byte) : (s.setReg r v).cfg = s.cfg := by cases r <;> rfl
@[simp] theorem State.setReg_tClkNs (r : Reg) (v : Byte) : (s.setReg r v).tClkNs = s.tClkNs := by cases r <;> rfl
@[simp] theorem State.setReg_sched (r : Reg) (v : Byte) : (s.setReg r v).sched = s.sched := by cases r <;> rfl
@[simp] theorem State.setReg_out (r : Reg) (v : Byte) : (s.setReg r v).out = s.out := by cases r <;> rfl
@[simp] theorem State.setReg_free (r : Reg) (v : Byte) : (s.setReg r v).free = s.free := by cases r <;> rfl
@[simp] theorem State.setReg_dcr_dcr (v : Byte) : (s.setReg .dcr v).dcr = v := rfl
@[simp] theorem State.setReg_dcr_dmr (v : Byte) : (s.setReg .dcr v).dmr = s.dmr := rfl
@[simp] theorem State.setReg_dmr_dcr (v : Byte) : (s.setReg .dmr v).dcr = s.dcr := rfl
@[simp] theorem State.setReg_dmr_dmr (v : Byte) : (s.setReg .dmr v).dmr = v := rfl

/-! Ports: `pend` and `text` after an update of the ports. -/

/-- `PEND[q]` after `PEND[p] <- x`. -/
@[simp] theorem State.pend_setPend (p q : Nat) (x : Pend) :
    (s.setPend p x).pend q = if q = p then (s.pend p).map fun _ => x else s.pend q := by
  simp only [State.pend, State.setPend_ports, List.getElem?_modify]
  by_cases h : q = p
  · subst h; simp; cases s.ports[q]? <;> rfl
  · have : ¬ p = q := fun e => h e.symm
    simp [h, this]

/-- `TXT[q]` after `PEND[p] <- x`. -/
@[simp] theorem State.text_setPend (p q : Nat) (x : Pend) : (s.setPend p x).text q = s.text q := by
  simp only [State.text, State.setPend_ports, List.getElem?_modify]
  by_cases h : p = q
  · subst h; simp; cases s.ports[p]? <;> rfl
  · simp [h]

/-- `PEND[q]` after a write to a text buffer. -/
@[simp] theorem State.pend_setText (p q : Nat) (i : Half) (b : Byte) : (s.setText p i b).pend q = s.pend q := by
  simp only [State.pend, State.setText_ports, List.getElem?_modify]
  by_cases h : p = q
  · subst h; simp; cases s.ports[p]? <;> rfl
  · simp [h]

/-- `TXT[q]` after a write to `TXT[p]`. -/
theorem State.text_setText (p q : Nat) (i : Half) (b : Byte) (hp : p < s.ports.length) :
    (s.setText p i b).text q = if q = p then Memory.write (s.text p) i.toNat b else s.text q := by
  simp only [State.text, State.setText_ports, List.getElem?_modify]
  by_cases h : q = p
  · subst h; simp [List.getElem?_eq_getElem hp]
  · have : ¬ p = q := fun e => h e.symm
    simp [h, this]

/-- A port that has a request state exists. -/
theorem State.lt_of_pend {p : Nat} {x : Pend} (h : s.pend p = some x) : p < s.ports.length := by
  simp only [State.pend, Option.map_eq_some_iff] at h
  obtain ⟨q, hq, -⟩ := h
  exact (List.getElem?_eq_some_iff.mp hq).1

/-! `pend` and `text` after an update that leaves the ports alone. -/
@[simp] theorem State.pend_setReg (r : Reg) (v : Byte) (q : Nat) : (s.setReg r v).pend q = s.pend q := by cases r <;> rfl
@[simp] theorem State.text_setReg (r : Reg) (v : Byte) (q : Nat) : (s.setReg r v).text q = s.text q := by cases r <;> rfl
@[simp] theorem State.pend_setFrame (v : Byte) (m : Bool) (q : Nat) : (s.setFrame v m).pend q = s.pend q := rfl
@[simp] theorem State.text_setFrame (v : Byte) (m : Bool) (q : Nat) : (s.setFrame v m).text q = s.text q := rfl
@[simp] theorem State.pend_setTmr (n : Nat) (q : Nat) : (s.setTmr n).pend q = s.pend q := rfl
@[simp] theorem State.text_setTmr (n : Nat) (q : Nat) : (s.setTmr n).text q = s.text q := rfl
@[simp] theorem State.pend_setPos (k : BitVec 8) (j : BitVec 4) (q : Nat) : (s.setPos k j).pend q = s.pend q := rfl
@[simp] theorem State.text_setPos (k : BitVec 8) (j : BitVec 4) (q : Nat) : (s.setPos k j).text q = s.text q := rfl
@[simp] theorem State.pend_setCur (c : Cur) (q : Nat) : (s.setCur c).pend q = s.pend q := rfl
@[simp] theorem State.text_setCur (c : Cur) (q : Nat) : (s.setCur c).text q = s.text q := rfl
@[simp] theorem State.pend_endCur (q : Nat) : (s.endCur).pend q = s.pend q := rfl
@[simp] theorem State.text_endCur (q : Nat) : (s.endCur).text q = s.text q := rfl
@[simp] theorem State.pend_setStart (i : Half) (q : Nat) : (s.setStart i).pend q = s.pend q := rfl
@[simp] theorem State.text_setStart (i : Half) (q : Nat) : (s.setStart i).text q = s.text q := rfl
@[simp] theorem State.pend_setSteps (l : List MacroStep) (q : Nat) : (s.setSteps l).pend q = s.pend q := rfl
@[simp] theorem State.text_setSteps (l : List MacroStep) (q : Nat) : (s.setSteps l).text q = s.text q := rfl
@[simp] theorem State.pend_setEng (e : Phase) (q : Nat) : (s.setEng e).pend q = s.pend q := rfl
@[simp] theorem State.text_setEng (e : Phase) (q : Nat) : (s.setEng e).text q = s.text q := rfl
@[simp] theorem State.pend_setLock (l : Option Nat) (q : Nat) : (s.setLock l).pend q = s.pend q := rfl
@[simp] theorem State.text_setLock (l : Option Nat) (q : Nat) : (s.setLock l).text q = s.text q := rfl
@[simp] theorem State.pend_setOe (b : Bool) (q : Nat) : (s.setOe b).pend q = s.pend q := rfl
@[simp] theorem State.text_setOe (b : Bool) (q : Nat) : (s.setOe b).text q = s.text q := rfl
@[simp] theorem State.pend_setPin (p : Pin) (b : Bool) (q : Nat) : (s.setPin p b).pend q = s.pend q := rfl
@[simp] theorem State.text_setPin (p : Pin) (b : Bool) (q : Nat) : (s.setPin p b).text q = s.text q := rfl
@[simp] theorem State.pend_setPw (w : Option (Pin × Bool)) (q : Nat) : (s.setPw w).pend q = s.pend q := rfl
@[simp] theorem State.text_setPw (w : Option (Pin × Bool)) (q : Nat) : (s.setPw w).text q = s.text q := rfl
@[simp] theorem State.pend_emit (e : Event) (q : Nat) : (s.emit e).pend q = s.pend q := rfl
@[simp] theorem State.text_emit (e : Event) (q : Nat) : (s.emit e).text q = s.text q := rfl
@[simp] theorem State.pend_clearOut (q : Nat) : (s.clearOut).pend q = s.pend q := rfl
@[simp] theorem State.text_clearOut (q : Nat) : (s.clearOut).text q = s.text q := rfl
@[simp] theorem State.pend_setSched (l : List Move) (q : Nat) : (s.setSched l).pend q = s.pend q := rfl
@[simp] theorem State.text_setSched (l : List Move) (q : Nat) : (s.setSched l).text q = s.text q := rfl
@[simp] theorem State.pend_nextFree (q : Nat) : (s.nextFree).pend q = s.pend q := rfl
@[simp] theorem State.text_nextFree (q : Nat) : (s.nextFree).text q = s.text q := rfl

end Sys2Proof.Machine
end

