-- ==== Sys2Proof/Laws/Ops.lean ====
section
/-! SUPPORT. For each shared operation, the fields it leaves as they were, and what it does to the requests and the
text buffers. -/

namespace Sys2Proof.Machine

variable (s : State)

/-! `startStep` -/
@[simp] theorem State.startStep_dcr (st : MacroStep) : (s.startStep st).dcr = s.dcr := by cases st <;> rfl
@[simp] theorem State.startStep_dmr (st : MacroStep) : (s.startStep st).dmr = s.dmr := by cases st <;> rfl
@[simp] theorem State.startStep_tmr (st : MacroStep) : (s.startStep st).tmr = s.tmr := by cases st <;> rfl
@[simp] theorem State.startStep_seqStep (st : MacroStep) : (s.startStep st).seqStep = s.seqStep := by cases st <;> rfl
@[simp] theorem State.startStep_txSub (st : MacroStep) : (s.startStep st).txSub = s.txSub := by cases st <;> rfl
@[simp] theorem State.startStep_cur (st : MacroStep) : (s.startStep st).cur = s.cur := by cases st <;> rfl
@[simp] theorem State.startStep_steps (st : MacroStep) : (s.startStep st).steps = s.steps := by cases st <;> rfl
@[simp] theorem State.startStep_eng (st : MacroStep) : (s.startStep st).eng = s.eng := by cases st <;> rfl
@[simp] theorem State.startStep_lock (st : MacroStep) : (s.startStep st).lock = s.lock := by cases st <;> rfl
@[simp] theorem State.startStep_oe (st : MacroStep) : (s.startStep st).oe = s.oe := by cases st <;> rfl
@[simp] theorem State.startStep_ports (st : MacroStep) : (s.startStep st).ports = s.ports := by cases st <;> rfl
@[simp] theorem State.startStep_pins (st : MacroStep) : (s.startStep st).pins = s.pins := by cases st <;> rfl
@[simp] theorem State.startStep_pw (st : MacroStep) : (s.startStep st).pw = s.pw := by cases st <;> rfl
@[simp] theorem State.startStep_cfg (st : MacroStep) : (s.startStep st).cfg = s.cfg := by cases st <;> rfl
@[simp] theorem State.startStep_tClkNs (st : MacroStep) : (s.startStep st).tClkNs = s.tClkNs := by cases st <;> rfl
@[simp] theorem State.startStep_sched (st : MacroStep) : (s.startStep st).sched = s.sched := by cases st <;> rfl
@[simp] theorem State.startStep_free (st : MacroStep) : (s.startStep st).free = s.free := by cases st <;> rfl
@[simp] theorem State.pend_startStep (st : MacroStep) (q : Nat) : (s.startStep st).pend q = s.pend q := by simp [State.pend]
@[simp] theorem State.text_startStep (st : MacroStep) (q : Nat) : (s.startStep st).text q = s.text q := by simp [State.text]

/-! `issue` -/
@[simp] theorem State.issue_dcr (pin : Pin) (b : Bool) : (s.issue pin b).dcr = s.dcr := rfl
@[simp] theorem State.issue_dmr (pin : Pin) (b : Bool) : (s.issue pin b).dmr = s.dmr := rfl
@[simp] theorem State.issue_frv (pin : Pin) (b : Bool) : (s.issue pin b).frv = s.frv := rfl
@[simp] theorem State.issue_frm (pin : Pin) (b : Bool) : (s.issue pin b).frm = s.frm := rfl
@[simp] theorem State.issue_tmr (pin : Pin) (b : Bool) : (s.issue pin b).tmr = s.tmr := rfl
@[simp] theorem State.issue_seqStep (pin : Pin) (b : Bool) : (s.issue pin b).seqStep = s.seqStep := rfl
@[simp] theorem State.issue_txSub (pin : Pin) (b : Bool) : (s.issue pin b).txSub = s.txSub := rfl
@[simp] theorem State.issue_cur (pin : Pin) (b : Bool) : (s.issue pin b).cur = s.cur := rfl
@[simp] theorem State.issue_steps (pin : Pin) (b : Bool) : (s.issue pin b).steps = s.steps := rfl
@[simp] theorem State.issue_eng (pin : Pin) (b : Bool) : (s.issue pin b).eng = s.eng := rfl
@[simp] theorem State.issue_lock (pin : Pin) (b : Bool) : (s.issue pin b).lock = s.lock := rfl
@[simp] theorem State.issue_oe (pin : Pin) (b : Bool) : (s.issue pin b).oe = s.oe := rfl
@[simp] theorem State.issue_ports (pin : Pin) (b : Bool) : (s.issue pin b).ports = s.ports := rfl
@[simp] theorem State.issue_pins (pin : Pin) (b : Bool) : (s.issue pin b).pins = s.pins := rfl
@[simp] theorem State.issue_cfg (pin : Pin) (b : Bool) : (s.issue pin b).cfg = s.cfg := rfl
@[simp] theorem State.issue_tClkNs (pin : Pin) (b : Bool) : (s.issue pin b).tClkNs = s.tClkNs := rfl
@[simp] theorem State.issue_sched (pin : Pin) (b : Bool) : (s.issue pin b).sched = s.sched := rfl
@[simp] theorem State.issue_free (pin : Pin) (b : Bool) : (s.issue pin b).free = s.free := rfl
@[simp] theorem State.pend_issue (pin : Pin) (b : Bool) (q : Nat) : (s.issue pin b).pend q = s.pend q := by simp [State.pend]
@[simp] theorem State.text_issue (pin : Pin) (b : Bool) (q : Nat) : (s.issue pin b).text q = s.text q := by simp [State.text]

/-! `advance` -/
@[simp] theorem State.advance_dcr : (s.advance).dcr = s.dcr := by unfold State.advance; split <;> [split <;> rfl; rfl]
@[simp] theorem State.advance_dmr : (s.advance).dmr = s.dmr := by unfold State.advance; split <;> [split <;> rfl; rfl]
@[simp] theorem State.advance_frv : (s.advance).frv = s.frv := by unfold State.advance; split <;> [split <;> rfl; rfl]
@[simp] theorem State.advance_frm : (s.advance).frm = s.frm := by unfold State.advance; split <;> [split <;> rfl; rfl]
@[simp] theorem State.advance_tmr : (s.advance).tmr = s.tmr := by unfold State.advance; split <;> [split <;> rfl; rfl]
@[simp] theorem State.advance_cur : (s.advance).cur = s.cur := by unfold State.advance; split <;> [split <;> rfl; rfl]
@[simp] theorem State.advance_steps : (s.advance).steps = s.steps := by unfold State.advance; split <;> [split <;> rfl; rfl]
@[simp] theorem State.advance_eng : (s.advance).eng = s.eng := by unfold State.advance; split <;> [split <;> rfl; rfl]
@[simp] theorem State.advance_lock : (s.advance).lock = s.lock := by unfold State.advance; split <;> [split <;> rfl; rfl]
@[simp] theorem State.advance_oe : (s.advance).oe = s.oe := by unfold State.advance; split <;> [split <;> rfl; rfl]
@[simp] theorem State.advance_ports : (s.advance).ports = s.ports := by unfold State.advance; split <;> [split <;> rfl; rfl]
@[simp] theorem State.advance_pins : (s.advance).pins = s.pins := by unfold State.advance; split <;> [split <;> rfl; rfl]
@[simp] theorem State.advance_pw : (s.advance).pw = s.pw := by unfold State.advance; split <;> [split <;> rfl; rfl]
@[simp] theorem State.advance_cfg : (s.advance).cfg = s.cfg := by unfold State.advance; split <;> [split <;> rfl; rfl]
@[simp] theorem State.advance_tClkNs : (s.advance).tClkNs = s.tClkNs := by unfold State.advance; split <;> [split <;> rfl; rfl]
@[simp] theorem State.advance_sched : (s.advance).sched = s.sched := by unfold State.advance; split <;> [split <;> rfl; rfl]
@[simp] theorem State.advance_out : (s.advance).out = s.out := by unfold State.advance; split <;> [split <;> rfl; rfl]
@[simp] theorem State.advance_free : (s.advance).free = s.free := by unfold State.advance; split <;> [split <;> rfl; rfl]
@[simp] theorem State.pend_advance (q : Nat) : (s.advance).pend q = s.pend q := by simp [State.pend]
@[simp] theorem State.text_advance (q : Nat) : (s.advance).text q = s.text q := by simp [State.text]

/-! `lateAnswer` -/
/-- A late answer leaves the whole state as it was (R224). -/
@[simp] theorem State.lateAnswer_eq (ack err : Bool) : s.lateAnswer ack err = s := rfl

/-! `waitStep` -/
@[simp] theorem State.waitStep_dcr (us : Nat) : (s.waitStep us).dcr = s.dcr := by unfold State.waitStep; split <;> simp
@[simp] theorem State.waitStep_dmr (us : Nat) : (s.waitStep us).dmr = s.dmr := by unfold State.waitStep; split <;> simp
@[simp] theorem State.waitStep_frv (us : Nat) : (s.waitStep us).frv = s.frv := by unfold State.waitStep; split <;> simp
@[simp] theorem State.waitStep_frm (us : Nat) : (s.waitStep us).frm = s.frm := by unfold State.waitStep; split <;> simp
@[simp] theorem State.waitStep_cur (us : Nat) : (s.waitStep us).cur = s.cur := by unfold State.waitStep; split <;> simp
@[simp] theorem State.waitStep_steps (us : Nat) : (s.waitStep us).steps = s.steps := by unfold State.waitStep; split <;> simp
@[simp] theorem State.waitStep_eng (us : Nat) : (s.waitStep us).eng = s.eng := by unfold State.waitStep; split <;> simp
@[simp] theorem State.waitStep_lock (us : Nat) : (s.waitStep us).lock = s.lock := by unfold State.waitStep; split <;> simp
@[simp] theorem State.waitStep_oe (us : Nat) : (s.waitStep us).oe = s.oe := by unfold State.waitStep; split <;> simp
@[simp] theorem State.waitStep_ports (us : Nat) : (s.waitStep us).ports = s.ports := by unfold State.waitStep; split <;> simp
@[simp] theorem State.waitStep_pins (us : Nat) : (s.waitStep us).pins = s.pins := by unfold State.waitStep; split <;> simp
@[simp] theorem State.waitStep_pw (us : Nat) : (s.waitStep us).pw = s.pw := by unfold State.waitStep; split <;> simp
@[simp] theorem State.waitStep_cfg (us : Nat) : (s.waitStep us).cfg = s.cfg := by unfold State.waitStep; split <;> simp
@[simp] theorem State.waitStep_tClkNs (us : Nat) : (s.waitStep us).tClkNs = s.tClkNs := by unfold State.waitStep; split <;> simp
@[simp] theorem State.waitStep_sched (us : Nat) : (s.waitStep us).sched = s.sched := by unfold State.waitStep; split <;> simp
@[simp] theorem State.waitStep_free (us : Nat) : (s.waitStep us).free = s.free := by unfold State.waitStep; split <;> simp
@[simp] theorem State.pend_waitStep (us : Nat) (q : Nat) : (s.waitStep us).pend q = s.pend q := by simp [State.pend]
@[simp] theorem State.text_waitStep (us : Nat) (q : Nat) : (s.waitStep us).text q = s.text q := by simp [State.text]

/-! `ackWrite` -/
@[simp] theorem State.ackWrite_dcr (pin : Pin) (b : Bool) : (s.ackWrite pin b).dcr = s.dcr := by simp [State.ackWrite]
@[simp] theorem State.ackWrite_dmr (pin : Pin) (b : Bool) : (s.ackWrite pin b).dmr = s.dmr := by simp [State.ackWrite]
@[simp] theorem State.ackWrite_frv (pin : Pin) (b : Bool) : (s.ackWrite pin b).frv = s.frv := by simp [State.ackWrite]
@[simp] theorem State.ackWrite_frm (pin : Pin) (b : Bool) : (s.ackWrite pin b).frm = s.frm := by simp [State.ackWrite]
@[simp] theorem State.ackWrite_tmr (pin : Pin) (b : Bool) : (s.ackWrite pin b).tmr = s.tmr := by simp [State.ackWrite]
@[simp] theorem State.ackWrite_cur (pin : Pin) (b : Bool) : (s.ackWrite pin b).cur = s.cur := by simp [State.ackWrite]
@[simp] theorem State.ackWrite_steps (pin : Pin) (b : Bool) : (s.ackWrite pin b).steps = s.steps := by simp [State.ackWrite]
@[simp] theorem State.ackWrite_eng (pin : Pin) (b : Bool) : (s.ackWrite pin b).eng = s.eng := by simp [State.ackWrite]
@[simp] theorem State.ackWrite_lock (pin : Pin) (b : Bool) : (s.ackWrite pin b).lock = s.lock := by simp [State.ackWrite]
@[simp] theorem State.ackWrite_oe (pin : Pin) (b : Bool) : (s.ackWrite pin b).oe = s.oe := by simp [State.ackWrite]
@[simp] theorem State.ackWrite_ports (pin : Pin) (b : Bool) : (s.ackWrite pin b).ports = s.ports := by simp [State.ackWrite]
@[simp] theorem State.ackWrite_cfg (pin : Pin) (b : Bool) : (s.ackWrite pin b).cfg = s.cfg := by simp [State.ackWrite]
@[simp] theorem State.ackWrite_tClkNs (pin : Pin) (b : Bool) : (s.ackWrite pin b).tClkNs = s.tClkNs := by simp [State.ackWrite]
@[simp] theorem State.ackWrite_sched (pin : Pin) (b : Bool) : (s.ackWrite pin b).sched = s.sched := by simp [State.ackWrite]
@[simp] theorem State.ackWrite_free (pin : Pin) (b : Bool) : (s.ackWrite pin b).free = s.free := by simp [State.ackWrite]
@[simp] theorem State.pend_ackWrite (pin : Pin) (b : Bool) (q : Nat) : (s.ackWrite pin b).pend q = s.pend q := by simp [State.pend]
@[simp] theorem State.text_ackWrite (pin : Pin) (b : Bool) (q : Nat) : (s.ackWrite pin b).text q = s.text q := by simp [State.text]

/-! `takeUp` -/
@[simp] theorem State.takeUp_dcr (p : Nat) (w : Word) : (s.takeUp p w).dcr = s.dcr := rfl
@[simp] theorem State.takeUp_dmr (p : Nat) (w : Word) : (s.takeUp p w).dmr = s.dmr := rfl
@[simp] theorem State.takeUp_frv (p : Nat) (w : Word) : (s.takeUp p w).frv = s.frv := rfl
@[simp] theorem State.takeUp_frm (p : Nat) (w : Word) : (s.takeUp p w).frm = s.frm := rfl
@[simp] theorem State.takeUp_tmr (p : Nat) (w : Word) : (s.takeUp p w).tmr = s.tmr := rfl
@[simp] theorem State.takeUp_steps (p : Nat) (w : Word) : (s.takeUp p w).steps = s.steps := rfl
@[simp] theorem State.takeUp_eng (p : Nat) (w : Word) : (s.takeUp p w).eng = s.eng := rfl
@[simp] theorem State.takeUp_oe (p : Nat) (w : Word) : (s.takeUp p w).oe = s.oe := rfl
@[simp] theorem State.takeUp_pins (p : Nat) (w : Word) : (s.takeUp p w).pins = s.pins := rfl
@[simp] theorem State.takeUp_pw (p : Nat) (w : Word) : (s.takeUp p w).pw = s.pw := rfl
@[simp] theorem State.takeUp_cfg (p : Nat) (w : Word) : (s.takeUp p w).cfg = s.cfg := rfl
@[simp] theorem State.takeUp_tClkNs (p : Nat) (w : Word) : (s.takeUp p w).tClkNs = s.tClkNs := rfl
@[simp] theorem State.takeUp_sched (p : Nat) (w : Word) : (s.takeUp p w).sched = s.sched := rfl
@[simp] theorem State.takeUp_free (p : Nat) (w : Word) : (s.takeUp p w).free = s.free := rfl

/-! `putDown` -/
@[simp] theorem State.putDown_dcr : (s.putDown).dcr = s.dcr := rfl
@[simp] theorem State.putDown_dmr : (s.putDown).dmr = s.dmr := rfl
@[simp] theorem State.putDown_frv : (s.putDown).frv = s.frv := rfl
@[simp] theorem State.putDown_frm : (s.putDown).frm = s.frm := rfl
@[simp] theorem State.putDown_eng : (s.putDown).eng = s.eng := rfl
@[simp] theorem State.putDown_lock : (s.putDown).lock = s.lock := rfl
@[simp] theorem State.putDown_oe : (s.putDown).oe = s.oe := rfl
@[simp] theorem State.putDown_ports : (s.putDown).ports = s.ports := rfl
@[simp] theorem State.putDown_pins : (s.putDown).pins = s.pins := rfl
@[simp] theorem State.putDown_pw : (s.putDown).pw = s.pw := rfl
@[simp] theorem State.putDown_cfg : (s.putDown).cfg = s.cfg := rfl
@[simp] theorem State.putDown_tClkNs : (s.putDown).tClkNs = s.tClkNs := rfl
@[simp] theorem State.putDown_sched : (s.putDown).sched = s.sched := rfl
@[simp] theorem State.putDown_out : (s.putDown).out = s.out := rfl
@[simp] theorem State.putDown_free : (s.putDown).free = s.free := rfl
@[simp] theorem State.pend_putDown (q : Nat) : (s.putDown).pend q = s.pend q := by simp [State.pend]
@[simp] theorem State.text_putDown (q : Nat) : (s.putDown).text q = s.text q := by simp [State.text]

/-! `endOp` -/
@[simp] theorem State.endOp_dcr (p : Nat) (status : Status) (info : BitVec 3) : (s.endOp p status info).dcr = s.dcr := rfl
@[simp] theorem State.endOp_dmr (p : Nat) (status : Status) (info : BitVec 3) : (s.endOp p status info).dmr = s.dmr := rfl
@[simp] theorem State.endOp_frv (p : Nat) (status : Status) (info : BitVec 3) : (s.endOp p status info).frv = s.frv := rfl
@[simp] theorem State.endOp_frm (p : Nat) (status : Status) (info : BitVec 3) : (s.endOp p status info).frm = s.frm := rfl
@[simp] theorem State.endOp_eng (p : Nat) (status : Status) (info : BitVec 3) : (s.endOp p status info).eng = s.eng := rfl
@[simp] theorem State.endOp_oe (p : Nat) (status : Status) (info : BitVec 3) : (s.endOp p status info).oe = s.oe := rfl
@[simp] theorem State.endOp_pins (p : Nat) (status : Status) (info : BitVec 3) : (s.endOp p status info).pins = s.pins := rfl
@[simp] theorem State.endOp_pw (p : Nat) (status : Status) (info : BitVec 3) : (s.endOp p status info).pw = s.pw := rfl
@[simp] theorem State.endOp_cfg (p : Nat) (status : Status) (info : BitVec 3) : (s.endOp p status info).cfg = s.cfg := rfl
@[simp] theorem State.endOp_tClkNs (p : Nat) (status : Status) (info : BitVec 3) : (s.endOp p status info).tClkNs = s.tClkNs := rfl
@[simp] theorem State.endOp_sched (p : Nat) (status : Status) (info : BitVec 3) : (s.endOp p status info).sched = s.sched := rfl
@[simp] theorem State.endOp_free (p : Nat) (status : Status) (info : BitVec 3) : (s.endOp p status info).free = s.free := rfl

/-! `endBoot` -/
@[simp] theorem State.endBoot_dcr (e : Event) : (s.endBoot e).dcr = s.dcr := rfl
@[simp] theorem State.endBoot_dmr (e : Event) : (s.endBoot e).dmr = s.dmr := rfl
@[simp] theorem State.endBoot_frv (e : Event) : (s.endBoot e).frv = s.frv := rfl
@[simp] theorem State.endBoot_frm (e : Event) : (s.endBoot e).frm = s.frm := rfl
@[simp] theorem State.endBoot_lock (e : Event) : (s.endBoot e).lock = s.lock := rfl
@[simp] theorem State.endBoot_oe (e : Event) : (s.endBoot e).oe = s.oe := rfl
@[simp] theorem State.endBoot_ports (e : Event) : (s.endBoot e).ports = s.ports := rfl
@[simp] theorem State.endBoot_pins (e : Event) : (s.endBoot e).pins = s.pins := rfl
@[simp] theorem State.endBoot_pw (e : Event) : (s.endBoot e).pw = s.pw := rfl
@[simp] theorem State.endBoot_cfg (e : Event) : (s.endBoot e).cfg = s.cfg := rfl
@[simp] theorem State.endBoot_tClkNs (e : Event) : (s.endBoot e).tClkNs = s.tClkNs := rfl
@[simp] theorem State.endBoot_sched (e : Event) : (s.endBoot e).sched = s.sched := rfl
@[simp] theorem State.endBoot_free (e : Event) : (s.endBoot e).free = s.free := rfl
@[simp] theorem State.pend_endBoot (e : Event) (q : Nat) : (s.endBoot e).pend q = s.pend q := by simp [State.pend]
@[simp] theorem State.text_endBoot (e : Event) (q : Nat) : (s.endBoot e).text q = s.text q := by simp [State.text]

/-! `finish` -/
@[simp] theorem State.finish_dcr : (s.finish).dcr = s.dcr := by unfold State.finish; split <;> simp
@[simp] theorem State.finish_dmr : (s.finish).dmr = s.dmr := by unfold State.finish; split <;> simp
@[simp] theorem State.finish_frv : (s.finish).frv = s.frv := by unfold State.finish; split <;> simp
@[simp] theorem State.finish_frm : (s.finish).frm = s.frm := by unfold State.finish; split <;> simp
@[simp] theorem State.finish_oe : (s.finish).oe = s.oe := by unfold State.finish; split <;> simp
@[simp] theorem State.finish_pins : (s.finish).pins = s.pins := by unfold State.finish; split <;> simp
@[simp] theorem State.finish_pw : (s.finish).pw = s.pw := by unfold State.finish; split <;> simp
@[simp] theorem State.finish_cfg : (s.finish).cfg = s.cfg := by unfold State.finish; split <;> simp
@[simp] theorem State.finish_tClkNs : (s.finish).tClkNs = s.tClkNs := by unfold State.finish; split <;> simp
@[simp] theorem State.finish_sched : (s.finish).sched = s.sched := by unfold State.finish; split <;> simp
@[simp] theorem State.finish_free : (s.finish).free = s.free := by unfold State.finish; split <;> simp

/-! `abort` -/
@[simp] theorem State.abort_dcr (pin : Pin) : (s.abort pin).dcr = s.dcr := by unfold State.abort; dsimp only; split <;> simp
@[simp] theorem State.abort_dmr (pin : Pin) : (s.abort pin).dmr = s.dmr := by unfold State.abort; dsimp only; split <;> simp
@[simp] theorem State.abort_frv (pin : Pin) : (s.abort pin).frv = s.frv := by unfold State.abort; dsimp only; split <;> simp
@[simp] theorem State.abort_frm (pin : Pin) : (s.abort pin).frm = s.frm := by unfold State.abort; dsimp only; split <;> simp
@[simp] theorem State.abort_oe (pin : Pin) : (s.abort pin).oe = s.oe := by unfold State.abort; dsimp only; split <;> simp
@[simp] theorem State.abort_cfg (pin : Pin) : (s.abort pin).cfg = s.cfg := by unfold State.abort; dsimp only; split <;> simp
@[simp] theorem State.abort_tClkNs (pin : Pin) : (s.abort pin).tClkNs = s.tClkNs := by unfold State.abort; dsimp only; split <;> simp
@[simp] theorem State.abort_sched (pin : Pin) : (s.abort pin).sched = s.sched := by unfold State.abort; dsimp only; split <;> simp

/-! `rejectPort` -/
@[simp] theorem State.rejectPort_dcr (p : Nat) (w : Word) (status : Status) : (s.rejectPort p w status).dcr = s.dcr := rfl
@[simp] theorem State.rejectPort_dmr (p : Nat) (w : Word) (status : Status) : (s.rejectPort p w status).dmr = s.dmr := rfl
@[simp] theorem State.rejectPort_frv (p : Nat) (w : Word) (status : Status) : (s.rejectPort p w status).frv = s.frv := rfl
@[simp] theorem State.rejectPort_frm (p : Nat) (w : Word) (status : Status) : (s.rejectPort p w status).frm = s.frm := rfl
@[simp] theorem State.rejectPort_tmr (p : Nat) (w : Word) (status : Status) : (s.rejectPort p w status).tmr = s.tmr := rfl
@[simp] theorem State.rejectPort_seqStep (p : Nat) (w : Word) (status : Status) : (s.rejectPort p w status).seqStep = s.seqStep := rfl
@[simp] theorem State.rejectPort_txSub (p : Nat) (w : Word) (status : Status) : (s.rejectPort p w status).txSub = s.txSub := rfl
@[simp] theorem State.rejectPort_cur (p : Nat) (w : Word) (status : Status) : (s.rejectPort p w status).cur = s.cur := rfl
@[simp] theorem State.rejectPort_steps (p : Nat) (w : Word) (status : Status) : (s.rejectPort p w status).steps = s.steps := rfl
@[simp] theorem State.rejectPort_eng (p : Nat) (w : Word) (status : Status) : (s.rejectPort p w status).eng = s.eng := rfl
@[simp] theorem State.rejectPort_lock (p : Nat) (w : Word) (status : Status) : (s.rejectPort p w status).lock = s.lock := rfl
@[simp] theorem State.rejectPort_oe (p : Nat) (w : Word) (status : Status) : (s.rejectPort p w status).oe = s.oe := rfl
@[simp] theorem State.rejectPort_pins (p : Nat) (w : Word) (status : Status) : (s.rejectPort p w status).pins = s.pins := rfl
@[simp] theorem State.rejectPort_pw (p : Nat) (w : Word) (status : Status) : (s.rejectPort p w status).pw = s.pw := rfl
@[simp] theorem State.rejectPort_cfg (p : Nat) (w : Word) (status : Status) : (s.rejectPort p w status).cfg = s.cfg := rfl
@[simp] theorem State.rejectPort_tClkNs (p : Nat) (w : Word) (status : Status) : (s.rejectPort p w status).tClkNs = s.tClkNs := rfl
@[simp] theorem State.rejectPort_sched (p : Nat) (w : Word) (status : Status) : (s.rejectPort p w status).sched = s.sched := rfl
@[simp] theorem State.rejectPort_free (p : Nat) (w : Word) (status : Status) : (s.rejectPort p w status).free = s.free := rfl

/-! `completePort` -/
@[simp] theorem State.completePort_dcr (p : Nat) (op : Byte) (status : Status) (info : BitVec 3) : (s.completePort p op status info).dcr = s.dcr := rfl
@[simp] theorem State.completePort_dmr (p : Nat) (op : Byte) (status : Status) (info : BitVec 3) : (s.completePort p op status info).dmr = s.dmr := rfl
@[simp] theorem State.completePort_frv (p : Nat) (op : Byte) (status : Status) (info : BitVec 3) : (s.completePort p op status info).frv = s.frv := rfl
@[simp] theorem State.completePort_frm (p : Nat) (op : Byte) (status : Status) (info : BitVec 3) : (s.completePort p op status info).frm = s.frm := rfl
@[simp] theorem State.completePort_tmr (p : Nat) (op : Byte) (status : Status) (info : BitVec 3) : (s.completePort p op status info).tmr = s.tmr := rfl
@[simp] theorem State.completePort_seqStep (p : Nat) (op : Byte) (status : Status) (info : BitVec 3) : (s.completePort p op status info).seqStep = s.seqStep := rfl
@[simp] theorem State.completePort_txSub (p : Nat) (op : Byte) (status : Status) (info : BitVec 3) : (s.completePort p op status info).txSub = s.txSub := rfl
@[simp] theorem State.completePort_cur (p : Nat) (op : Byte) (status : Status) (info : BitVec 3) : (s.completePort p op status info).cur = s.cur := rfl
@[simp] theorem State.completePort_steps (p : Nat) (op : Byte) (status : Status) (info : BitVec 3) : (s.completePort p op status info).steps = s.steps := rfl
@[simp] theorem State.completePort_eng (p : Nat) (op : Byte) (status : Status) (info : BitVec 3) : (s.completePort p op status info).eng = s.eng := rfl
@[simp] theorem State.completePort_lock (p : Nat) (op : Byte) (status : Status) (info : BitVec 3) : (s.completePort p op status info).lock = s.lock := rfl
@[simp] theorem State.completePort_oe (p : Nat) (op : Byte) (status : Status) (info : BitVec 3) : (s.completePort p op status info).oe = s.oe := rfl
@[simp] theorem State.completePort_pins (p : Nat) (op : Byte) (status : Status) (info : BitVec 3) : (s.completePort p op status info).pins = s.pins := rfl
@[simp] theorem State.completePort_pw (p : Nat) (op : Byte) (status : Status) (info : BitVec 3) : (s.completePort p op status info).pw = s.pw := rfl
@[simp] theorem State.completePort_cfg (p : Nat) (op : Byte) (status : Status) (info : BitVec 3) : (s.completePort p op status info).cfg = s.cfg := rfl
@[simp] theorem State.completePort_tClkNs (p : Nat) (op : Byte) (status : Status) (info : BitVec 3) : (s.completePort p op status info).tClkNs = s.tClkNs := rfl
@[simp] theorem State.completePort_sched (p : Nat) (op : Byte) (status : Status) (info : BitVec 3) : (s.completePort p op status info).sched = s.sched := rfl
@[simp] theorem State.completePort_free (p : Nat) (op : Byte) (status : Status) (info : BitVec 3) : (s.completePort p op status info).free = s.free := rfl

/-! Requests and text where the ports change. -/

@[simp] theorem State.pend_takeUp (p q : Nat) (w : Word) :
    (s.takeUp p w).pend q = if q = p then (s.pend p).map fun _ => .granted else s.pend q := by simp [State.takeUp]
@[simp] theorem State.text_takeUp (p q : Nat) (w : Word) : (s.takeUp p w).text q = s.text q := by simp [State.takeUp]
@[simp] theorem State.pend_endOp (p q : Nat) (status : Status) (info : BitVec 3) :
    (s.endOp p status info).pend q =
      if q = p then (s.pend p).map fun _ => .finishing s.cur.op status info else s.pend q := by
  simp [State.endOp, State.putDown]
@[simp] theorem State.text_endOp (p q : Nat) (status : Status) (info : BitVec 3) :
    (s.endOp p status info).text q = s.text q := by simp [State.endOp, State.putDown]
@[simp] theorem State.text_finish (q : Nat) : (s.finish).text q = s.text q := by
  unfold State.finish; split <;> simp
@[simp] theorem State.text_abort (pin : Pin) (q : Nat) : (s.abort pin).text q = s.text q := by
  unfold State.abort; dsimp only; split <;> simp
@[simp] theorem State.pend_rejectPort (p q : Nat) (w : Word) (status : Status) : (s.rejectPort p w status).pend q =
    if q = p then (s.pend p).map fun _ => .finishing (opField w) status 0 else s.pend q := by simp [State.rejectPort]
@[simp] theorem State.text_rejectPort (p q : Nat) (w : Word) (status : Status) :
    (s.rejectPort p w status).text q = s.text q := by simp [State.rejectPort]
@[simp] theorem State.pend_completePort (p q : Nat) (op : Byte) (status : Status) (info : BitVec 3) :
    (s.completePort p op status info).pend q = if q = p then (s.pend p).map fun _ => .idle else s.pend q := by
  simp [State.completePort]
@[simp] theorem State.text_completePort (p q : Nat) (op : Byte) (status : Status) (info : BitVec 3) :
    (s.completePort p op status info).text q = s.text q := by simp [State.completePort]

/-! What the ends leave in the fields they write. -/

@[simp] theorem State.finish_cur : (s.finish).cur = { s.cur with valid := false } := by
  unfold State.finish; split <;> rfl
@[simp] theorem State.finish_seqStep : (s.finish).seqStep = 0 := by unfold State.finish; split <;> rfl
@[simp] theorem State.finish_txSub : (s.finish).txSub = 0 := by unfold State.finish; split <;> rfl
@[simp] theorem State.finish_tmr : (s.finish).tmr = 0 := by unfold State.finish; split <;> rfl
@[simp] theorem State.finish_steps : (s.finish).steps = [] := by unfold State.finish; split <;> rfl
@[simp] theorem State.abort_cur (pin : Pin) : (s.abort pin).cur = { s.cur with valid := false } := by
  unfold State.abort; dsimp only; split <;> rfl
@[simp] theorem State.abort_seqStep (pin : Pin) : (s.abort pin).seqStep = 0 := by
  unfold State.abort; dsimp only; split <;> rfl
@[simp] theorem State.abort_txSub (pin : Pin) : (s.abort pin).txSub = 0 := by
  unfold State.abort; dsimp only; split <;> rfl
@[simp] theorem State.abort_tmr (pin : Pin) : (s.abort pin).tmr = 0 := by
  unfold State.abort; dsimp only; split <;> rfl
@[simp] theorem State.abort_steps (pin : Pin) : (s.abort pin).steps = [] := by
  unfold State.abort; dsimp only; split <;> rfl
@[simp] theorem State.abort_pw (pin : Pin) : (s.abort pin).pw = none := by
  unfold State.abort; dsimp only; split <;> rfl

end Sys2Proof.Machine
end

