-- ==== Sys2Proof/Laws/Step.lean ====
section
/-! SUPPORT. What one step can do, said once: which move is made in which state, and what each move can lead to. -/

namespace Sys2Proof.Machine

/-- The state a move meets: the outputs of the last step are over, the schedule has lost its head. -/
def State.advanceSched (s : State) (n : Nat) : State := { s with sched := s.sched.tail, out := [], free := n }

/-- Every step is one move, the head of the schedule or an own move of the block, in the same state but for the
schedule, the outputs and the count of free values. -/
theorem step_is_perform (s : State) : ∃ m n, step s = (s.advanceSched n).perform m ∧
    (s.sched.head? = some m ∨ (s.sched = [] ∧ (m = .idle ∧ s.ownMoves = [] ∨ m ∈ s.ownMoves))) := by
  cases hs : s.sched with
  | cons m rest =>
    refine ⟨m, s.free, ?_, .inl rfl⟩
    simp [step, State.nextMove, State.clearOut, State.setSched, State.advanceSched, hs]
  | nil =>
    have hown : s.clearOut.ownMoves = s.ownMoves := rfl
    have hfree : s.clearOut.free = s.free := rfl
    have h0 : s.clearOut = s.advanceSched s.free := by simp [State.clearOut, State.advanceSched, hs]
    have h1 : s.clearOut.nextFree = s.advanceSched (s.free + 1) := by
      simp [State.clearOut, State.nextFree, State.advanceSched, hs]
    have hstep : step s = (s.clearOut.ownMove).2.perform (s.clearOut.ownMove).1 := by
      simp [step, State.nextMove, hs]
    rw [hstep]
    unfold State.ownMove
    rw [hown]
    match hm : s.ownMoves with
    | [] => exact ⟨.idle, s.free, by rw [← h0], .inr ⟨rfl, .inl ⟨rfl, rfl⟩⟩⟩
    | [m] => exact ⟨m, s.free, by rw [← h0], .inr ⟨rfl, .inr (by simp)⟩⟩
    | m :: m' :: ms =>
      refine ⟨_, s.free + 1, by rw [← h1], .inr ⟨rfl, .inr ?_⟩⟩
      dsimp only
      have hlt : Config.agentChoice s.clearOut.free % ((m' :: ms).length + 1) < (m :: m' :: ms).length :=
        Nat.mod_lt _ (by simp)
      rw [List.getElem?_eq_getElem hlt, Option.getD_some]
      exact List.getElem_mem hlt

/-- The state in which a substep's first event is seen: at substep 0 the macro step has just started. -/
def State.started (s : State) (st : MacroStep) : State := if s.txSub = 0 then s.startStep st else s

@[simp] theorem State.started_dcr (s : State) (st : MacroStep) : (s.started st).dcr = s.dcr := by
  unfold State.started; split <;> simp
@[simp] theorem State.started_dmr (s : State) (st : MacroStep) : (s.started st).dmr = s.dmr := by
  unfold State.started; split <;> simp
@[simp] theorem State.started_tmr (s : State) (st : MacroStep) : (s.started st).tmr = s.tmr := by
  unfold State.started; split <;> simp
@[simp] theorem State.started_seqStep (s : State) (st : MacroStep) : (s.started st).seqStep = s.seqStep := by
  unfold State.started; split <;> simp
@[simp] theorem State.started_txSub (s : State) (st : MacroStep) : (s.started st).txSub = s.txSub := by
  unfold State.started; split <;> simp
@[simp] theorem State.started_cur (s : State) (st : MacroStep) : (s.started st).cur = s.cur := by
  unfold State.started; split <;> simp
@[simp] theorem State.started_steps (s : State) (st : MacroStep) : (s.started st).steps = s.steps := by
  unfold State.started; split <;> simp
@[simp] theorem State.started_eng (s : State) (st : MacroStep) : (s.started st).eng = s.eng := by
  unfold State.started; split <;> simp
@[simp] theorem State.started_lock (s : State) (st : MacroStep) : (s.started st).lock = s.lock := by
  unfold State.started; split <;> simp
@[simp] theorem State.started_oe (s : State) (st : MacroStep) : (s.started st).oe = s.oe := by
  unfold State.started; split <;> simp
@[simp] theorem State.started_ports (s : State) (st : MacroStep) : (s.started st).ports = s.ports := by
  unfold State.started; split <;> simp
@[simp] theorem State.started_pins (s : State) (st : MacroStep) : (s.started st).pins = s.pins := by
  unfold State.started; split <;> simp
@[simp] theorem State.started_pw (s : State) (st : MacroStep) : (s.started st).pw = s.pw := by
  unfold State.started; split <;> simp
@[simp] theorem State.started_cfg (s : State) (st : MacroStep) : (s.started st).cfg = s.cfg := by
  unfold State.started; split <;> simp
@[simp] theorem State.started_tClkNs (s : State) (st : MacroStep) : (s.started st).tClkNs = s.tClkNs := by
  unfold State.started; split <;> simp
@[simp] theorem State.started_sched (s : State) (st : MacroStep) : (s.started st).sched = s.sched := by
  unfold State.started; split <;> simp
@[simp] theorem State.started_free (s : State) (st : MacroStep) : (s.started st).free = s.free := by
  unfold State.started; split <;> simp
@[simp] theorem State.pend_started (s : State) (st : MacroStep) (q : Nat) : (s.started st).pend q = s.pend q := by
  simp [State.pend]
@[simp] theorem State.text_started (s : State) (st : MacroStep) (q : Nat) : (s.started st).text q = s.text q := by
  simp [State.text]

/-- A scheduled move, made in the state with the schedule's head and the last outputs gone. -/
theorem step_of_sched {s : State} {m : Move} {rest : List Move} (h : s.sched = m :: rest) :
    step s = ({ s with sched := rest, out := [] } : State).perform m := by
  simp [step, State.nextMove, h, State.clearOut, State.setSched]

/-- The engine's move past the last macro step (R138). -/
theorem engineMove_of_finish {s : State} (hv : s.cur.valid = true) (hw : s.pw = none) (hc : s.currentStep = none) :
    s.engineMove = .next s.finish := by
  simp only [State.engineMove, hv, hw, Option.isNone_none, Bool.and_self, if_true, State.engineStep, hc]

/-- The engine's move at a write substep (R103). -/
theorem engineMove_of_write {s : State} {st : MacroStep} {pin : Pin} {b : Bool} (hv : s.cur.valid = true)
    (hw : s.pw = none) (ht : s.tmr = 0) (hc : s.currentStep = some st)
    (hs : (substepsOf st (s.started st).frv (s.started st).frm)[s.txSub.toNat]? = some (.write pin b)) :
    s.engineMove = .next ((s.started st).issue pin b) := by
  have hs' := hs
  unfold State.started at hs'
  simp only [State.engineMove, hv, hw, Option.isNone_none, Bool.and_self, if_true, State.engineStep, hc, hs', ht]
  rfl

/-- The engine's move at a wait substep (R104). -/
theorem engineMove_of_wait {s : State} {st : MacroStep} {us : Nat} (hv : s.cur.valid = true) (hw : s.pw = none)
    (hc : s.currentStep = some st)
    (hs : (substepsOf st (s.started st).frv (s.started st).frm)[s.txSub.toNat]? = some (.wait us)) :
    s.engineMove = .next ((s.started st).waitStep us) := by
  have hs' := hs
  unfold State.started at hs'
  simp only [State.engineMove, hv, hw, Option.isNone_none, Bool.and_self, if_true, State.engineStep, hc, hs']
  rfl

/-- The engine's move is none while a pin write is in flight (R35). -/
theorem engineMove_of_inFlight {s : State} {x : Pin × Bool} (hw : s.pw = some x) : s.engineMove = .next s := by
  simp [State.engineMove, hw]

/-- What a move can lead to from a state, one constructor per kind of step (R14). -/
inductive Effect (s : State) : Move → State → Prop
  | still (m : Move) : Effect s m s
  | reset (c : Cfg) (h : c.wf = true) : Effect s (.reset c) (s.applyReset c)
  | word (m : Move) (p : Nat) (w : Word) (x : Pend) (hm : m = .post p w ∨ m = .changeWord p w)
      (hp : s.pend p = some x) (hx : x = .idle ∨ ∃ v, x = .posted v) : Effect s m (s.setPend p (.posted w))
  | text (p : Nat) (i : Half) (b : Byte) : Effect s (.writeText p i b) (s.setText p i b)
  | failed (pin : Pin) (b ack : Bool) (hw : s.pw = some (pin, b)) : Effect s (.pinAnswer ack true) (s.abort pin)
  | acked (pin : Pin) (b : Bool) (hw : s.pw = some (pin, b)) : Effect s (.pinAnswer true false) (s.ackWrite pin b)
  | finished (hv : s.cur.valid = true) (hw : s.pw = none) (hc : s.currentStep = none) : Effect s .engine s.finish
  | issued (st : MacroStep) (pin : Pin) (b : Bool) (hv : s.cur.valid = true) (hw : s.pw = none)
      (hc : s.currentStep = some st) (ht : s.tmr = 0)
      (hs : (substepsOf st (s.started st).frv (s.started st).frm)[s.txSub.toNat]? = some (.write pin b)) :
      Effect s .engine ((s.started st).issue pin b)
  | waited (st : MacroStep) (us : Nat) (hv : s.cur.valid = true) (hw : s.pw = none) (hc : s.currentStep = some st)
      (hs : (substepsOf st (s.started st).frv (s.started st).frm)[s.txSub.toNat]? = some (.wait us)) :
      Effect s .engine ((s.started st).waitStep us)
  | granted (p : Nat) (w : Word) (i : Instr) (t : State) (hp : s.pend p = some (.posted w))
      (hf : s.engineFree = true) (hd : decode w = .request i) (he : exec i (s.takeUp p w) = .next t) :
      Effect s (.grant p) t
  | rejected (p : Nat) (w : Word) (status : Status) (hp : s.pend p = some (.posted w))
      (hr : s.rejection w = some status) : Effect s (.reject p) (s.rejectPort p w status)
  | completed (p : Nat) (op : Byte) (status : Status) (info : BitVec 3)
      (hp : s.pend p = some (.finishing op status info)) : Effect s (.complete p) (s.completePort p op status info)

/-- The engine's move, inverted. -/
theorem engineMove_effect {s t : State} (h : s.engineMove = .next t) : Effect s .engine t := by
  unfold State.engineMove at h
  split at h
  · rename_i hv
    simp only [Bool.and_eq_true, Option.isNone_iff_eq_none] at hv
    unfold State.engineStep at h
    split at h
    · rename_i hc
      cases h
      exact .finished hv.1 hv.2 hc
    · rename_i st hc
      dsimp only at h
      split at h
      · cases h
      · rename_i pin b hs
        split at h
        · rename_i ht
          cases h
          exact .issued st pin b hv.1 hv.2 hc ht hs
        · cases h
      · rename_i us hs
        cases h
        exact .waited st us hv.1 hv.2 hc hs
  · cases h
    exact .still _

/-- The grant, inverted. -/
theorem grantMove_effect {s t : State} {p : Nat} (h : s.grantMove p = .next t) : Effect s (.grant p) t := by
  unfold State.grantMove at h
  split at h
  · rename_i w hp
    split at h
    · rename_i hf
      split at h
      · rename_i i hd
        exact .granted p w i t hp hf hd h
      · cases h; exact .still _
    · cases h; exact .still _
  · cases h; exact .still _

/-- The Pin Set's answer, inverted. -/
theorem pinAnswer_effect (s : State) (ack err : Bool) : Effect s (.pinAnswer ack err) (s.pinAnswer ack err) := by
  unfold State.pinAnswer
  split
  · exact .still _
  · rename_i pin b hw
    cases err with
    | true => exact .failed pin b ack hw
    | false =>
      cases ack with
      | true => exact .acked pin b hw
      | false => exact .still _

/-- What a move that answers a next state has done. -/
theorem perform_effect {s t : State} {m : Move} (h : s.perform m = .next t) : Effect s m t := by
  cases m with
  | reset c =>
    simp only [State.perform, State.resetMove] at h
    split at h
    · rename_i hc
      cases h
      exact .reset c hc
    · cases h
  | post p w =>
    cases h
    unfold State.postMove
    split
    · rename_i hp
      exact .word _ p w _ (.inl rfl) hp (.inl rfl)
    · exact .still _
  | changeWord p w =>
    cases h
    unfold State.changeMove
    split
    · rename_i v hp
      exact .word _ p w _ (.inr rfl) hp (.inr ⟨v, rfl⟩)
    · exact .still _
  | withdraw p =>
    simp only [State.perform, State.withdrawMove] at h
    split at h <;> cases h <;> exact .still _
  | writeText p i b => cases h; exact .text p i b
  | pinAnswer ack err => cases h; exact pinAnswer_effect s ack err
  | lateAnswer ack err => cases h; exact .still _
  | engine => exact engineMove_effect h
  | grant p => exact grantMove_effect h
  | reject p =>
    cases h
    unfold State.rejectMove
    split
    · rename_i w hp
      split
      · rename_i status hr
        exact .rejected p w status hp hr
      · exact .still _
    · exact .still _
  | complete p =>
    cases h
    unfold State.completeMove
    split
    · rename_i op status info hp
      exact .completed p op status info hp
    · exact .still _
  | idle => cases h; exact .still _

/-- What a step that answers a next state has done. -/
theorem step_effect {s t : State} (h : step s = .next t) : ∃ m n, Effect (s.advanceSched n) m t ∧
    (s.sched.head? = some m ∨ (s.sched = [] ∧ (m = .idle ∧ s.ownMoves = [] ∨ m ∈ s.ownMoves))) := by
  obtain ⟨m, n, he, hm⟩ := step_is_perform s
  exact ⟨m, n, perform_effect (he ▸ h), hm⟩

/-- The own moves of the block are the engine's and the ports' (R136, R142, R194). -/
theorem ownMoves_kinds {s : State} {m : Move} (h : m ∈ s.ownMoves) :
    (m = .engine ∧ s.cur.valid = true ∧ s.pw = none) ∨
      ∃ p, (m = .grant p ∧ s.eligible p = true) ∨
        (m = .reject p ∧ ∃ w status, s.pend p = some (.posted w) ∧ s.rejection w = some status) ∨
        (m = .complete p ∧ ∃ op status info, s.pend p = some (.finishing op status info)) := by
  unfold State.ownMoves at h
  rw [List.mem_append] at h
  rcases h with h | h
  · split at h
    · rename_i hv
      simp only [Bool.and_eq_true, Option.isNone_iff_eq_none] at hv
      simp only [List.mem_singleton] at h
      exact .inl ⟨h, hv⟩
    · simp at h
  · obtain ⟨p, -, hp⟩ := List.mem_flatMap.mp h
    refine .inr ⟨p, ?_⟩
    unfold State.portMoves at hp
    split at hp
    · rename_i w hw
      split at hp
      · rename_i status hr
        simp only [List.mem_singleton] at hp
        exact .inr (.inl ⟨hp, w, status, hw, hr⟩)
      · split at hp
        · rename_i he
          simp only [List.mem_singleton] at hp
          exact .inl ⟨hp, he⟩
        · simp at hp
    · rename_i op status info hw
      simp only [List.mem_singleton] at hp
      exact .inr (.inr ⟨hp, op, status, info, hw⟩)
    all_goals simp at hp

/-- No own move of the block is an input of the outside. -/
theorem not_reset_of_step {s : State} {m : Move} (hr : s.noReset)
    (hm : s.sched.head? = some m ∨ (s.sched = [] ∧ (m = .idle ∧ s.ownMoves = [] ∨ m ∈ s.ownMoves))) (c : Cfg) : m ≠ .reset c := by
  rintro rfl
  rcases hm with hm | ⟨-, ⟨hm, -⟩ | hm⟩
  · exact hr c hm
  · cases hm
  · rcases ownMoves_kinds hm with ⟨h, -⟩ | ⟨p, ⟨h, -⟩ | ⟨h, -⟩ | ⟨h, -⟩⟩ <;> cases h

end Sys2Proof.Machine
end

