-- ==== Sys2Proof/Laws/Walk.lean ====
section
/-! SUPPORT. How an operation's walk goes on and ends: the advance of the position (R26), the cases of a wait (R104), the
end and the abort by owner (R138, R196, R209), and the engine's scheduled step (R103). -/

namespace Sys2Proof.Machine

variable {s t : State}

/-! ### The end and the abort, by owner -/

theorem finish_of_port {p : Nat} (h : s.cur.owner = .port p) : s.finish = s.endOp p .ok 0 := by
  unfold State.finish; rw [h]

theorem finish_of_auto (h : s.cur.owner = .auto) : s.finish = s.endBoot .ready := by
  unfold State.finish; rw [h]

/-- The state in which an abort ends its operation: the write is over and its pin has a free level (R196, log 1). -/
def State.failPin (s : State) (pin : Pin) : State :=
  (((s.setPw none).setPin pin (Config.failedPinLevel s.free)).nextFree).emit (.failed pin)

theorem abort_of_port {p : Nat} {pin : Pin} (h : s.cur.owner = .port p) :
    s.abort pin = (s.failPin pin).endOp p .errIo (pinId pin) := by
  unfold State.abort; simp only [h]; rfl

theorem abort_of_auto {pin : Pin} (h : s.cur.owner = .auto) :
    s.abort pin = (s.failPin pin).endBoot (.bootErr (pinId pin)) := by
  unfold State.abort; simp only [h]; rfl

theorem endOp_lock (s : State) (p : Nat) (status : Status) (info : BitVec 3) : (s.endOp p status info).lock = none := rfl
theorem endOp_valid (s : State) (p : Nat) (status : Status) (info : BitVec 3) :
    (s.endOp p status info).cur.valid = false := rfl
theorem endOp_tmr (s : State) (p : Nat) (status : Status) (info : BitVec 3) : (s.endOp p status info).tmr = 0 := rfl
theorem endOp_ports (s : State) (p : Nat) (status : Status) (info : BitVec 3) : (s.endOp p status info).ports =
    s.ports.modify p fun q => { q with pend := .finishing s.cur.op status info } := rfl
theorem endOp_out (s : State) (p : Nat) (status : Status) (info : BitVec 3) :
    (s.endOp p status info).out = s.out ++ [.ended p status info] := rfl
theorem endBoot_eng (s : State) (e : Event) : (s.endBoot e).eng = .opened := rfl
theorem endBoot_valid (s : State) (e : Event) : (s.endBoot e).cur.valid = false := rfl
theorem endBoot_out (s : State) (e : Event) : (s.endBoot e).out = s.out ++ [e] := rfl

theorem failPin_cur (s : State) (pin : Pin) : (s.failPin pin).cur = s.cur := by simp [State.failPin]
theorem failPin_ports (s : State) (pin : Pin) : (s.failPin pin).ports = s.ports := by simp [State.failPin]
theorem failPin_eng (s : State) (pin : Pin) : (s.failPin pin).eng = s.eng := by simp [State.failPin]
theorem failPin_lock (s : State) (pin : Pin) : (s.failPin pin).lock = s.lock := by simp [State.failPin]
theorem failPin_out (s : State) (pin : Pin) : (s.failPin pin).out = s.out ++ [.failed pin] := rfl

/-! ### The position -/

theorem currentStep_congr (hs : t.steps = s.steps) (hk : t.seqStep = s.seqStep) : t.currentStep = s.currentStep := by
  simp [State.currentStep, hs, hk]

theorem substepCount_le (st : MacroStep) : substepCount st ≤ 16 := by cases st <;> simp [substepCount]

theorem substepCount_pos (st : MacroStep) : 1 ≤ substepCount st := by cases st <;> simp [substepCount]

/-- Inside a macro step the position goes to the next substep (R26). -/
theorem advance_within {st : MacroStep} (hc : s.currentStep = some st) (h : s.txSub.toNat + 1 < substepCount st) :
    s.advance = s.setPos s.seqStep (s.txSub + 1) := by
  unfold State.advance; rw [hc]; dsimp only; rw [if_pos h]

/-- After a macro step's last substep the position goes to the next macro step (R26). -/
theorem advance_past {st : MacroStep} (hc : s.currentStep = some st) (h : ¬ s.txSub.toNat + 1 < substepCount st) :
    s.advance = s.setPos (s.seqStep + 1) 0 := by
  unfold State.advance; rw [hc]; dsimp only; rw [if_neg h]

theorem advance_none (hc : s.currentStep = none) : s.advance = s := by unfold State.advance; rw [hc]

/-- Where the position goes depends on the step list and the position alone. -/
theorem advance_congr (hs : t.steps = s.steps) (hk : t.seqStep = s.seqStep) (hj : t.txSub = s.txSub) :
    t.advance.seqStep = s.advance.seqStep ∧ t.advance.txSub = s.advance.txSub := by
  have hc := currentStep_congr hs hk
  cases h0 : s.currentStep with
  | none => rw [advance_none h0, advance_none (hc.trans h0)]; exact ⟨hk, hj⟩
  | some st =>
    by_cases h : s.txSub.toNat + 1 < substepCount st
    · rw [advance_within h0 h, advance_within (hc.trans h0) (by rw [hj]; exact h)]
      exact ⟨hk, by show t.txSub + 1 = s.txSub + 1; rw [hj]⟩
    · rw [advance_past h0 h, advance_past (hc.trans h0) (by rw [hj]; exact h)]
      exact ⟨by show t.seqStep + 1 = s.seqStep + 1; rw [hk], rfl⟩

/-! ### Waits -/

theorem waitStep_begins {us : Nat} (h : s.tmr = 0) :
    s.waitStep us = (s.setTmr (timerLoad us s.tClkNs)).emit (.waitBegun us) := by
  unfold State.waitStep; rw [h]

theorem waitStep_ends {us : Nat} (h : s.tmr = 1) :
    s.waitStep us = ((s.setTmr 0).advance).emit (.waitEnded us) := by
  unfold State.waitStep; rw [h]

theorem waitStep_counts {us n : Nat} (h : s.tmr = n + 2) : s.waitStep us = s.setTmr (n + 1) := by
  unfold State.waitStep; rw [h]

theorem timerLoad_pos (us tClkNs : Nat) : 1 ≤ timerLoad us tClkNs := by simp [timerLoad]

/-! ### The start of a macro step -/

theorem started_of_sub_ne {st : MacroStep} (h : s.txSub ≠ 0) : s.started st = s := by
  unfold State.started; rw [if_neg h]

/-- A wait loads no frame register. -/
theorem started_of_wait {st : MacroStep} {us : Nat}
    (hs : (substepsOf st (s.started st).frv (s.started st).frm)[s.txSub.toNat]? = some (.wait us)) : s.started st = s := by
  by_cases h : s.txSub = 0
  · simp [h] at hs
    unfold State.started
    rw [if_pos h]
    cases st <;> simp [substepsOf, byteSubsteps, nibSubsteps] at hs
    rfl
  · exact started_of_sub_ne h

/-- The state with the given schedule and no outputs: what a scheduled move meets. -/
def State.popped (s : State) (rest : List Move) : State := { s with sched := rest, out := [] }

theorem started_popped (s : State) (rest : List Move) (st : MacroStep) :
    ((s.popped rest).started st).frv = (s.started st).frv ∧ ((s.popped rest).started st).frm = (s.started st).frm := by
  unfold State.started
  by_cases h : s.txSub = 0
  · rw [if_pos (show (s.popped rest).txSub = 0 from h), if_pos h]
    cases st <;> exact ⟨rfl, rfl⟩
  · rw [if_neg (show ¬(s.popped rest).txSub = 0 from h), if_neg h]
    exact ⟨rfl, rfl⟩

/-! ### The engine's step, when it is the scheduled move -/

theorem step_of_wait {rest : List Move} {st : MacroStep} {us : Nat} (h : s.sched = .engine :: rest)
    (hv : s.cur.valid = true) (hw : s.pw = none) (hc : s.currentStep = some st)
    (hs : (substepsOf st (s.started st).frv (s.started st).frm)[s.txSub.toNat]? = some (.wait us)) :
    step s = .next (((s.popped rest).started st).waitStep us) := by
  rw [step_of_sched h]
  refine engineMove_of_wait (s := s.popped rest) (st := st) (us := us) hv hw hc ?_
  rw [(started_popped s rest st).1, (started_popped s rest st).2]
  exact hs

theorem step_of_write {rest : List Move} {st : MacroStep} {pin : Pin} {b : Bool} (h : s.sched = .engine :: rest)
    (hv : s.cur.valid = true) (hw : s.pw = none) (ht : s.tmr = 0) (hc : s.currentStep = some st)
    (hs : (substepsOf st (s.started st).frv (s.started st).frm)[s.txSub.toNat]? = some (.write pin b)) :
    step s = .next (((s.popped rest).started st).issue pin b) := by
  rw [step_of_sched h]
  refine engineMove_of_write (s := s.popped rest) (st := st) hv hw ht hc ?_
  rw [(started_popped s rest st).1, (started_popped s rest st).2]
  exact hs

theorem step_of_finish {rest : List Move} (h : s.sched = .engine :: rest) (hv : s.cur.valid = true) (hw : s.pw = none)
    (hc : s.currentStep = none) : step s = .next (s.popped rest).finish := by
  rw [step_of_sched h]
  exact engineMove_of_finish (s := s.popped rest) hv hw hc

end Sys2Proof.Machine
end

