-- ==== Sys2Proof/Laws/Events.lean ====
section
/-! SUPPORT. The events of a step (R14, R36): what the start of a macro step, a wait, a meaning and each kind of step
show, said once. -/

namespace Sys2Proof.Machine

variable {s t : State}

/-- The start of a macro step shows at most the text read of a `Char`, made at its own index (R146). -/
theorem mem_started_out {st : MacroStep} {e : Event} (h : e ∈ (s.started st).out) :
    e ∈ s.out ∨ ∃ i, st = .char i ∧ s.txSub = 0 ∧ e = .textRead i (s.ownerByte i) := by
  unfold State.started at h
  split at h
  · rename_i hj
    cases st <;> simp [State.startStep] at h <;> first | exact .inl h | skip
    rcases h with h | h
    · exact .inl h
    · exact .inr ⟨_, rfl, hj, h⟩
  · exact .inl h

/-- A wait shows at most its own start or end (R104). -/
theorem mem_waitStep_out {us : Nat} {e : Event} (h : e ∈ (s.waitStep us).out) :
    e ∈ s.out ∨ e = .waitBegun us ∨ e = .waitEnded us := by
  unfold State.waitStep at h
  split at h <;> simp at h <;> tauto

/-- A meaning shows nothing of its own: the grant's event is the arbiter's (R136). -/
theorem exec_out {i : Instr} (h : exec i s = .next t) : t.out = s.out := by
  cases i <;> cases h <;> simp [State.turnOn, State.turnOff]

/-- The events of one step, by what the step did: a step that shows an event of one of these kinds is of that kind. -/
theorem effect_events {m : Move} {e : Event} (he : Effect s m t) (ho : s.out = []) (h : e ∈ t.out) :
    e = .resetSeen ∨ (∃ p, e = .granted p) ∨
    (∃ i, s.currentStep = some (.char i) ∧ s.txSub = 0 ∧ e = .textRead i (s.ownerByte i) ∧
      t.steps = s.steps ∧ t.seqStep = s.seqStep) ∨
    (∃ pin b, e = .issued pin b) ∨ (∃ pin b, e = .acked pin b) ∨ (∃ pin, e = .failed pin) ∨
    (∃ us, e = .waitBegun us ∨ e = .waitEnded us) ∨
    (∃ p status info, e = .ended p status info ∧ s.cur.owner = .port p) ∨
    (∃ p status, e = .rejected p status) ∨
    (∃ p op status info, e = .done p op status info ∧ s.pend p = some (.finishing op status info)) ∨
    ((e = .ready ∨ ∃ pin, e = .bootErr pin) ∧ s.cur.owner = .auto ∧ t.eng = .opened ∧ t.cur.valid = false ∧
      (s.pw ≠ none ∨ s.cur.valid = true)) := by
  cases he with
  | still => rw [ho] at h; cases h
  | reset c hc => simp [State.applyReset] at h; exact .inl h
  | word m p w x hm hp hx => simp [ho] at h
  | text p i b => simp [ho] at h
  | failed pin b ack hw =>
    cases hc : s.cur.owner with
    | port p =>
      rw [abort_of_port hc, endOp_out, failPin_out, ho] at h
      simp at h
      rcases h with rfl | rfl <;> simp
    | auto =>
      rw [abort_of_auto hc, endBoot_out, failPin_out, ho] at h
      simp at h
      rw [abort_of_auto hc]
      rcases h with rfl | rfl
      · simp
      · simp [endBoot_eng, endBoot_valid, hw]
  | acked pin b hw =>
    simp [State.ackWrite, ho] at h
    subst h; simp
  | finished hv hw hc =>
    cases hq : s.cur.owner with
    | port p =>
      rw [finish_of_port hq, endOp_out, ho] at h
      simp at h; subst h; simp
    | auto =>
      rw [finish_of_auto hq, endBoot_out, ho] at h
      rw [finish_of_auto hq]
      simp at h; subst h; simp [endBoot_eng, endBoot_valid, hv]
  | issued st pin b hv hw hc ht hs =>
    simp only [State.issue, State.emit_out, State.setPw_out, List.mem_append, List.mem_singleton] at h
    rcases h with h | rfl
    · rcases mem_started_out h with h | ⟨i, rfl, hj, rfl⟩
      · rw [ho] at h; cases h
      · exact .inr (.inr (.inl ⟨i, hc, hj, rfl, by simp [State.issue], by simp [State.issue]⟩))
    · simp
  | waited st us hv hw hc hs =>
    rcases mem_waitStep_out h with h | rfl | rfl
    · rw [started_of_wait hs, ho] at h; cases h
    · simp
    · simp
  | granted p w i t hp hf hd hx =>
    rw [exec_out hx] at h
    simp [State.takeUp, ho] at h
    subst h; simp
  | rejected p w status hp hr =>
    simp [State.rejectPort, ho] at h
    subst h; simp
  | completed p op status info hp =>
    simp [State.completePort, ho] at h
    subst h; simp [hp]

end Sys2Proof.Machine
end

