-- ==== Sys2Proof/Laws/Memory.lean ====
section
/-! SUPPORT. The text buffers: every write keeps the canonical form (R50). -/

namespace Sys2Proof.Machine

/-- A canonical buffer from `lo` is canonical from any lower index. -/
theorem Memory.wfFrom_mono {lo lo' : Nat} (h : lo' ≤ lo) : ∀ m : Memory, Memory.wfFrom lo m = true →
    Memory.wfFrom lo' m = true
  | [], _ => rfl
  | (k, v) :: m, hm => by
    simp only [Memory.wfFrom, Bool.and_eq_true, decide_eq_true_eq] at hm ⊢
    exact ⟨⟨⟨by omega, hm.1.1.2⟩, hm.1.2⟩, hm.2⟩

/-- A write keeps the canonical form. -/
theorem Memory.wfFrom_write (i : Nat) (b : Byte) (hi : i < 65536) : ∀ (lo : Nat) (m : Memory), lo ≤ i →
    Memory.wfFrom lo m = true → Memory.wfFrom lo (Memory.write m i b) = true
  | lo, [], hlo, _ => by
    by_cases hb : b = Memory.blankByte <;> simp [Memory.write, Memory.wfFrom, hb, hlo, hi]
  | lo, (k, v) :: m, hlo, hm => by
    simp only [Memory.wfFrom, Bool.and_eq_true, decide_eq_true_eq] at hm
    obtain ⟨⟨⟨hk, hk'⟩, hv⟩, hm'⟩ := hm
    unfold Memory.write
    split
    · split
      · simp [Memory.wfFrom, hk, hk', hv, hm']
      · simp [Memory.wfFrom, *]
    · split
      · split
        · exact Memory.wfFrom_mono (by omega) m hm'
        · simp [Memory.wfFrom, *]
      · have := Memory.wfFrom_write i b hi (k + 1) m (by omega) hm'
        simp [Memory.wfFrom, hk, hk', hv, this]

/-- A requester's write keeps its buffer canonical. -/
theorem Memory.wf_write {m : Memory} {i : Nat} (b : Byte) (hi : i < 65536) (h : Memory.wf m = true) :
    Memory.wf (Memory.write m i b) = true :=
  Memory.wfFrom_write i b hi 0 m (Nat.zero_le i) h

/-- The buffer of a fresh port is canonical. -/
theorem Memory.wf_nil : Memory.wf [] = true := rfl

end Sys2Proof.Machine
end

