-- ==== Sys2Proof/Laws/PerInstr.lean ====
section
/-! SUPPORT. Laws with one lemma per operation. Family `Encoding`: the word the encoder emits carries the operation's
opcode, which is a legal one, and its argument (R70, R71). -/

namespace Sys2Proof.Laws.Encoding

/-- The encoder puts opcode and argument in their places, and the opcode is legal. -/
def Statement (i : Instr) : Prop :=
  opField (encode i) = opcode i ∧ argField (encode i) = argument i ∧ legalOp (opcode i) = true

/-- The two field clauses hold of every operation. -/
theorem of_legal (i : Instr) (h : legalOp (opcode i) = true) : Statement i :=
  ⟨opField_append _ _, argField_append _ _, h⟩

theorem init : Statement .init := of_legal _ rfl
theorem print (len : Nat) : Statement (.print len) := of_legal _ rfl
theorem clear : Statement .clear := of_legal _ rfl
theorem home : Statement .home := of_legal _ rfl
theorem setCursor (col row : Nat) : Statement (.setCursor col row) := of_legal _ rfl
theorem display : Statement .display := of_legal _ rfl
theorem noDisplay : Statement .noDisplay := of_legal _ rfl
theorem cursor : Statement .cursor := of_legal _ rfl
theorem noCursor : Statement .noCursor := of_legal _ rfl
theorem blink : Statement .blink := of_legal _ rfl
theorem noBlink : Statement .noBlink := of_legal _ rfl
theorem scrollLeft : Statement .scrollLeft := of_legal _ rfl
theorem scrollRight : Statement .scrollRight := of_legal _ rfl
theorem leftToRight : Statement .leftToRight := of_legal _ rfl
theorem rightToLeft : Statement .rightToLeft := of_legal _ rfl
theorem autoscroll : Statement .autoscroll := of_legal _ rfl
theorem noAutoscroll : Statement .noAutoscroll := of_legal _ rfl
theorem close : Statement .close := of_legal _ rfl

end Sys2Proof.Laws.Encoding
end

