-- ==== Sys2Proof/Laws/Run.lean ====
section
/-! SUPPORT. Runs in which the Pin Set acknowledges every write: traces put together, and what one substep, one macro
step and the rest of a step list do in such a run (R61, R101, R102, R104, R146). -/

namespace Sys2Proof.Machine

/-! ### Traces put together -/

theorem runTrace_cons {s t u : State} {n : Nat} {ev : List Event} (h : step s = .next t)
    (h2 : runTrace n t = some (ev, u)) : runTrace (n + 1) s = some (t.out ++ ev, u) := by
  simp [runTrace, h, h2]

theorem runTrace_append {s t u : State} {n m : Nat} {e1 e2 : List Event} (h : runTrace n s = some (e1, t))
    (h2 : runTrace m t = some (e2, u)) : runTrace (n + m) s = some (e1 ++ e2, u) := by
  induction n generalizing s e1 with
  | zero => simp [runTrace] at h; obtain ⟨rfl, rfl⟩ := h; simpa using h2
  | succ n ih =>
    cases hs : step s with
    | next s' =>
      simp only [runTrace, hs] at h
      cases hr : runTrace n s' with
      | none => rw [hr] at h; cases h
      | some r =>
        rw [hr] at h; simp at h
        have := ih (s := s') (e1 := r.1) (by rw [hr, ← h.2])
        rw [show n + 1 + m = (n + m) + 1 by omega, runTrace_cons hs this, ← h.1, List.append_assoc]
    | fault r => simp only [runTrace, hs] at h; cases h
    | refused r => simp only [runTrace, hs] at h; cases h

theorem getElem?_of_drop {α : Type} {l : List α} {n : Nat} {x : α} {l' : List α} (h : l.drop n = x :: l') :
    l[n]? = some x := by
  have := List.getElem?_drop (xs := l) (i := n) (j := 0)
  simp [h] at this
  exact this.symm

/-! ### What a running operation leaves as it was -/

/-- The state outside the transmitter: a running operation leaves it as it was. -/
structure Kept (s t : State) : Prop where
  dcr : t.dcr = s.dcr
  dmr : t.dmr = s.dmr
  cur : t.cur = s.cur
  steps : t.steps = s.steps
  eng : t.eng = s.eng
  lock : t.lock = s.lock
  oe : t.oe = s.oe
  ports : t.ports = s.ports
  cfg : t.cfg = s.cfg
  tClkNs : t.tClkNs = s.tClkNs

theorem Kept.refl (s : State) : Kept s s := ⟨rfl, rfl, rfl, rfl, rfl, rfl, rfl, rfl, rfl, rfl⟩

theorem Kept.trans {s t u : State} (h : Kept s t) (h' : Kept t u) : Kept s u :=
  ⟨h'.1.trans h.1, h'.2.trans h.2, h'.3.trans h.3, h'.4.trans h.4, h'.5.trans h.5, h'.6.trans h.6, h'.7.trans h.7,
    h'.8.trans h.8, h'.9.trans h.9, h'.10.trans h.10⟩

/-- Between two substeps: nothing in flight, no wait, and the rest of the schedule to come. -/
structure Ready (s t : State) (rest : List Move) : Prop where
  kept : Kept s t
  pw : t.pw = none
  tmr : t.tmr = 0
  sched : t.sched = rest

/-- The events of one substep when its write is acknowledged. -/
def substepEvents : Substep → List Event
  | .write pin b => writeEvents pin b
  | .wait us => waitEvents us

/-- The text read that comes with a `Char`'s first write (R146), if there is one. -/
def State.readEvents (s : State) (st : MacroStep) : List Event := ((s.popped []).started st).out

theorem popped_started_out (s : State) (rest : List Move) (st : MacroStep) :
    ((s.popped rest).started st).out = s.readEvents st := by
  unfold State.readEvents State.started
  by_cases h : s.txSub = 0
  · rw [if_pos (show (s.popped rest).txSub = 0 from h), if_pos (show (s.popped []).txSub = 0 from h)]
    cases st <;> rfl
  · rw [if_neg (show ¬(s.popped rest).txSub = 0 from h), if_neg (show ¬(s.popped []).txSub = 0 from h)]
    rfl

theorem readEvents_of_sub_ne {s : State} {st : MacroStep} (h : s.txSub ≠ 0) : s.readEvents st = [] := by
  unfold State.readEvents; rw [started_of_sub_ne (s := s.popped []) h]; rfl

/-- In a state that differs from `s` in nothing a wait looks at, the substep is the same wait. -/
theorem wait_congr {s u : State} {st : MacroStep} {us : Nat} (hj : u.txSub = s.txSub) (hv : u.frv = s.frv)
    (hm : u.frm = s.frm)
    (hs : (substepsOf st (s.started st).frv (s.started st).frm)[s.txSub.toNat]? = some (.wait us)) :
    (substepsOf st (u.started st).frv (u.started st).frm)[u.txSub.toNat]? = some (.wait us) := by
  by_cases h : s.txSub = 0
  · rw [hj, h]
    simp [h] at hs
    cases st <;> simp [substepsOf, byteSubsteps, nibSubsteps] at hs ⊢
    exact hs
  · rw [started_of_sub_ne (s := u) (by rw [hj]; exact h), hj, hv, hm]
    rw [started_of_sub_ne h] at hs
    exact hs

theorem popped_started_of_wait {s : State} {st : MacroStep} {us : Nat} (rest : List Move)
    (hs : (substepsOf st (s.started st).frv (s.started st).frm)[s.txSub.toNat]? = some (.wait us)) :
    (s.popped rest).started st = s.popped rest :=
  started_of_wait (wait_congr (s := s) (u := s.popped rest) rfl rfl rfl hs)

/-- The clock periods of a wait in progress (R104, R241). -/
theorem ticks_run {st : MacroStep} {us : Nat} {rest : List Move} : ∀ (k : Nat) (s : State), s.tmr = k + 1 →
    s.cur.valid = true → s.pw = none → s.currentStep = some st →
    (substepsOf st (s.started st).frv (s.started st).frm)[s.txSub.toNat]? = some (.wait us) →
    s.sched = List.replicate (k + 1) .engine ++ rest →
    ∃ t, runTrace (k + 1) s = some ([.waitEnded us], t) ∧ Ready s t rest ∧ t.frv = s.frv ∧ t.frm = s.frm ∧
      t.seqStep = s.advance.seqStep ∧ t.txSub = s.advance.txSub := by
  intro k
  induction k with
  | zero =>
    intro s hk hv hw hc hs hsch
    have h1 := step_of_wait (rest := rest) (by simpa using hsch) hv hw hc hs
    rw [popped_started_of_wait rest hs, waitStep_ends (s := s.popped rest) hk] at h1
    have hR := runTrace_cons h1 (by rfl : runTrace 0 _ = _)
    refine ⟨(((s.popped rest).setTmr 0).advance).emit (.waitEnded us), hR.trans ?_,
      ⟨⟨?_, ?_, ?_, ?_, ?_, ?_, ?_, ?_, ?_, ?_⟩, ?_, ?_, ?_⟩, ?_, ?_, ?_⟩
    · simp [State.emit, State.popped]
    all_goals try (simp [State.popped, hw])
    exact advance_congr (by simp) (by simp) (by simp)
  | succ k ih =>
    intro s hk hv hw hc hs hsch
    have h1 := step_of_wait (rest := List.replicate (k + 1) .engine ++ rest)
      (by simpa [List.replicate_succ] using hsch) hv hw hc hs
    have hcount : (s.popped (List.replicate (k + 1) .engine ++ rest)).waitStep us = _ := waitStep_counts (n := k) hk
    rw [popped_started_of_wait _ hs, hcount] at h1
    let u := (s.popped (List.replicate (k + 1) .engine ++ rest)).setTmr (k + 1)
    obtain ⟨t, ht, hd, a, b, c⟩ := ih u rfl hv hw hc (wait_congr (s := s) (us := us) (u := u) rfl rfl rfl hs) rfl
    refine ⟨t, (runTrace_cons h1 ht).trans ?_, ⟨?_, hd.2, hd.3, hd.4⟩, a, b, ?_⟩
    · simp [State.popped]
    · exact Kept.trans (t := u) ⟨rfl, rfl, rfl, rfl, rfl, rfl, rfl, rfl, rfl, rfl⟩ hd.1
    · rw [c.1, c.2]; exact advance_congr (s := s) (t := u) rfl rfl rfl

/-- One substep, its write acknowledged or its wait waited out. -/
theorem substep_run {s : State} {st : MacroStep} {x : Substep} {rest : List Move} (hv : s.cur.valid = true)
    (hw : s.pw = none) (ht : s.tmr = 0) (hc : s.currentStep = some st)
    (hs : (substepsOf st (s.started st).frv (s.started st).frm)[s.txSub.toNat]? = some x)
    (hsch : s.sched = substepMoves s.tClkNs x ++ rest) :
    ∃ t, runTrace (substepMoves s.tClkNs x).length s = some (s.readEvents st ++ substepEvents x, t) ∧ Ready s t rest ∧
      t.frv = (s.started st).frv ∧ t.frm = (s.started st).frm ∧
      t.seqStep = s.advance.seqStep ∧ t.txSub = s.advance.txSub := by
  cases x with
  | write pin b =>
    have h1 := step_of_write (rest := .pinAnswer true false :: rest) (by simpa [substepMoves] using hsch) hv hw ht hc hs
    let u := ((s.popped (.pinAnswer true false :: rest)).started st).issue pin b
    have h2 : step u = .next ((u.popped rest).ackWrite pin b) := by
      rw [step_of_sched (m := .pinAnswer true false) (rest := rest) (by simp [u, State.popped])]
      simp [State.perform, State.pinAnswer, u, State.issue, State.setPw, State.emit, State.popped]
    have hR := runTrace_cons h1 (runTrace_cons h2 (by rfl : runTrace 0 _ = _))
    have hfr := started_popped s (.pinAnswer true false :: rest) st
    refine ⟨(u.popped rest).ackWrite pin b, hR.trans ?_, ⟨⟨?_, ?_, ?_, ?_, ?_, ?_, ?_, ?_, ?_, ?_⟩, ?_, ?_, ?_⟩, ?_, ?_, ?_⟩
    · simp only [State.issue, State.emit, State.ackWrite]
      simp [popped_started_out, substepEvents, writeEvents, State.setPw]
      simp [State.popped]
    all_goals try (simp [State.popped, u, ht]; done)
    · show (((u.popped rest).setPin pin b).setPw none).advance.pw = none
      simp
    · have : u.frv = (s.started st).frv := by rw [← hfr.1]; simp [u]
      simpa [State.popped] using this
    · have : u.frm = (s.started st).frm := by rw [← hfr.2]; simp [u]
      simpa [State.popped] using this
    · exact advance_congr (s := s) (t := ((u.popped rest).setPin pin b).setPw none) (by simp [State.popped, u])
        (by simp [State.popped, u]) (by simp [State.popped, u])
  | wait us =>
    have hL1 := timerLoad_pos us s.tClkNs
    obtain ⟨L, hL⟩ : ∃ L, timerLoad us s.tClkNs = L + 1 := ⟨timerLoad us s.tClkNs - 1, by omega⟩
    simp only [substepMoves, hL] at hsch ⊢
    have h1 := step_of_wait (rest := List.replicate (L + 1) .engine ++ rest) (by simpa using hsch) hv hw hc hs
    have hpop := popped_started_of_wait (List.replicate (L + 1) .engine ++ rest) hs
    have hbegin : (s.popped (List.replicate (L + 1) .engine ++ rest)).waitStep us = _ := waitStep_begins ht
    let u := ((s.popped (List.replicate (L + 1) .engine ++ rest)).setTmr (L + 1)).emit (.waitBegun us)
    have hu : ((s.popped (List.replicate (L + 1) .engine ++ rest)).setTmr
        (timerLoad us (s.popped (List.replicate (L + 1) .engine ++ rest)).tClkNs)).emit (.waitBegun us) = u := by
      simp only [show (s.popped (List.replicate (L + 1) .engine ++ rest)).tClkNs = s.tClkNs from rfl, hL]; rfl
    rw [hpop, hbegin, hu] at h1
    obtain ⟨t, ht', hd, a, b, c⟩ := ticks_run (rest := rest) L u rfl hv hw hc (wait_congr (s := s) (us := us) (u := u) rfl rfl rfl hs) rfl
    have hR := runTrace_cons h1 ht'
    refine ⟨t, ?_, ⟨?_, hd.2, hd.3, hd.4⟩, ?_, ?_, ?_⟩
    · rw [show (Move.engine :: List.replicate (L + 1) Move.engine).length = L + 1 + 1 by simp, hR]
      have : s.readEvents st = [] := by unfold State.readEvents; rw [popped_started_of_wait [] hs]; rfl
      simp [this, u, State.emit, State.popped, substepEvents, waitEvents, State.setTmr]
    · exact Kept.trans (t := u) ⟨rfl, rfl, rfl, rfl, rfl, rfl, rfl, rfl, rfl, rfl⟩ hd.1
    · rw [started_of_wait hs, a]; rfl
    · rw [started_of_wait hs, b]; rfl
    · rw [c.1, c.2]; exact advance_congr (s := s) (t := u) rfl rfl rfl

theorem substepsOf_length (st : MacroStep) (v : Byte) (m : Bool) : (substepsOf st v m).length = substepCount st := by
  cases st <;> simp [substepsOf, byteSubsteps, nibSubsteps, substepCount]

/-- The rest of a macro step, from the substep the position points at. -/
theorem substeps_run {st : MacroStep} {v : Byte} {m : Bool} {rest : List Move} : ∀ (l : List Substep) (x : Substep)
    (s : State), s.cur.valid = true → s.pw = none → s.tmr = 0 → s.currentStep = some st →
    (s.started st).frv = v → (s.started st).frm = m → (substepsOf st v m).drop s.txSub.toNat = x :: l →
    s.sched = (x :: l).flatMap (substepMoves s.tClkNs) ++ rest →
    ∃ t, runTrace ((x :: l).flatMap (substepMoves s.tClkNs)).length s =
        some (s.readEvents st ++ (x :: l).flatMap substepEvents, t) ∧
      Ready s t rest ∧ t.seqStep = s.seqStep + 1 ∧ t.txSub = 0 := by
  intro l
  induction l with
  | nil =>
    intro x s hv hw ht hc e1 e2 hd hsch
    have hlen := substepsOf_length st v m
    have hl : (substepsOf st v m).length - s.txSub.toNat = 1 := by rw [← List.length_drop, hd]; rfl
    obtain ⟨t, h1, h2, -, -, h3, h4⟩ := substep_run (x := x) (rest := rest) hv hw ht hc
      (by rw [e1, e2]; exact getElem?_of_drop hd) (by simpa using hsch)
    rw [advance_past hc (by omega)] at h3 h4
    exact ⟨t, by simpa using h1, h2, h3, h4⟩
  | cons y l ih =>
    intro x s hv hw ht hc e1 e2 hd hsch
    have hlen := substepsOf_length st v m
    have hl : (substepsOf st v m).length - s.txSub.toNat = l.length + 2 := by rw [← List.length_drop, hd]; rfl
    obtain ⟨t, h1, h2, h5, h6, h3, h4⟩ := substep_run (x := x)
      (rest := (y :: l).flatMap (substepMoves s.tClkNs) ++ rest) hv hw ht hc
      (by rw [e1, e2]; exact getElem?_of_drop hd) (by simpa [List.flatMap_cons] using hsch)
    rw [advance_within hc (by omega)] at h3 h4
    have hcount := substepCount_le st
    have htx : t.txSub.toNat = s.txSub.toNat + 1 := by
      rw [h4]; show (s.txSub + 1).toNat = _
      rw [BitVec.toNat_add]; simp; omega
    have hne : t.txSub ≠ 0 := by intro h; rw [h] at htx; simp at htx
    have hstt := started_of_sub_ne (st := st) hne
    have hd' : (substepsOf st v m).drop t.txSub.toNat = y :: l := by
      rw [htx, ← List.drop_drop, hd]; rfl
    obtain ⟨u, g1, g2, g3, g4⟩ := ih y t (by rw [h2.1.cur]; exact hv) h2.2 h2.3
      (by rw [← hc]; exact currentStep_congr h2.1.steps h3) (by rw [hstt, h5, e1]) (by rw [hstt, h6, e2]) hd'
      (by rw [h2.4, h2.1.tClkNs])
    rw [h2.1.tClkNs, readEvents_of_sub_ne hne] at g1
    refine ⟨u, ?_, ⟨h2.1.trans g2.1, g2.2, g2.3, g2.4⟩, ?_, g4⟩
    · have := runTrace_append h1 g1
      simp only [List.flatMap_cons, List.length_append] at this ⊢
      rw [this]; simp
    · rw [g3, h3]; rfl

/-- The moves of a macro step do not depend on the value it sends. -/
theorem substepShape_moves (s : State) (st : MacroStep) (k : Nat) (h : s.txSub = 0) :
    (substepShape st).flatMap (substepMoves k) =
      (substepsOf st (s.started st).frv (s.started st).frm).flatMap (substepMoves k) := by
  unfold State.started
  rw [if_pos h]
  have key : ∀ (v v' : Byte) (m : Bool),
      (byteSubsteps v m).flatMap (substepMoves k) = (byteSubsteps v' m).flatMap (substepMoves k) := by
    intro v v' m; simp [byteSubsteps, nibSubsteps, substepMoves]
  cases st with
  | wait us => rfl
  | nib n => simp [substepShape, substepsOf, nibSubsteps, substepMoves]
  | byte v m => exact key _ _ m
  | reg r => exact key _ _ false
  | char i => exact key _ _ true

theorem lowNibble_append (x y : Nibble) : lowNibble (x ++ y) = y := by
  unfold lowNibble
  apply BitVec.eq_of_getLsbD_eq
  intro i hi
  simp only [BitVec.getLsbD_extractLsb', BitVec.getLsbD_append]
  simp [hi]

/-- A whole macro step of port `p`'s operation, or of an operation that reads no text. -/
theorem macroStep_run {st : MacroStep} {rest : List Move} {p : Nat} (s : State) (hv : s.cur.valid = true)
    (hw : s.pw = none) (ht : s.tmr = 0) (hc : s.currentStep = some st) (hj : s.txSub = 0)
    (ho : ∀ i, st = .char i → s.cur.owner = .port p)
    (hsch : s.sched = (substepShape st).flatMap (substepMoves s.tClkNs) ++ rest) :
    ∃ t, runTrace ((substepShape st).flatMap (substepMoves s.tClkNs)).length s = some (s.stepEvents p st, t) ∧
      Ready s t rest ∧ t.seqStep = s.seqStep + 1 ∧ t.txSub = 0 := by
  have hm := substepShape_moves s st s.tClkNs hj
  have hlen := substepsOf_length st (s.started st).frv (s.started st).frm
  have hpos := substepCount_pos st
  obtain ⟨x, l, hx⟩ : ∃ x l, substepsOf st (s.started st).frv (s.started st).frm = x :: l := by
    cases h : substepsOf st (s.started st).frv (s.started st).frm with
    | nil => rw [h] at hlen; simp at hlen; omega
    | cons x l => exact ⟨x, l, rfl⟩
  rw [hm, hx] at hsch
  obtain ⟨t, h1, h2, h3, h4⟩ := substeps_run (rest := rest) l x s hv hw ht hc rfl rfl (by rw [hj]; simpa using hx) hsch
  refine ⟨t, ?_, h2, h3, h4⟩
  rw [hm, hx, h1]
  congr 2
  rw [← hx]
  unfold State.readEvents State.started
  rw [if_pos (show (s.popped []).txSub = 0 from hj), if_pos hj]
  cases st with
  | wait us => simp [State.startStep, State.stepEvents, substepsOf, substepEvents, State.popped]
  | nib n =>
    simp [State.startStep, State.stepEvents, substepsOf, substepEvents, State.popped, nibSubsteps, nibEvents,
      State.setFrame, lowNibble_append, tEn]
  | byte v m =>
    cases m <;> simp [State.startStep, State.stepEvents, substepsOf, substepEvents, State.popped, nibSubsteps,
      byteSubsteps, byteEvents, nibEvents, State.setFrame, tEn, tChr, tCmd, highNibble, lowNibble]
  | reg r =>
    simp [State.startStep, State.stepEvents, substepsOf, substepEvents, State.popped, nibSubsteps, byteSubsteps,
      byteEvents, nibEvents, State.setFrame, tEn, tCmd, highNibble, lowNibble]
  | char i =>
    have e : s.ownerByte i = Memory.read (s.text p) i.toNat := by unfold State.ownerByte; rw [ho i rfl]
    have e' : (s.popped []).ownerByte i = Memory.read (s.text p) i.toNat := e
    simp [State.startStep, State.stepEvents, substepsOf, substepEvents, State.popped, nibSubsteps, byteSubsteps,
      byteEvents, nibEvents, State.setFrame, tEn, tChr, highNibble, lowNibble, State.emit, e]
    exact e'

theorem stepEvents_kept {s t : State} (h : Kept s t) (p : Nat) : t.stepEvents p = s.stepEvents p := by
  have hr : ∀ r, t.reg r = s.reg r := by intro r; cases r <;> simp [State.reg, h.dcr, h.dmr]
  have ht : ∀ p, t.text p = s.text p := by intro p; simp [State.text, h.ports]
  funext st
  cases st <;> simp [State.stepEvents, hr, ht]

/-- The rest of a step list, from the start of the macro step the position points at. -/
theorem stepList_run {p : Nat} {rest : List Move} : ∀ (l : List MacroStep) (s : State), s.cur.valid = true →
    s.pw = none → s.tmr = 0 → s.txSub = 0 → s.steps.length < 256 → s.seqStep.toNat ≤ s.steps.length →
    s.steps.drop s.seqStep.toNat = l → (∀ i, MacroStep.char i ∈ s.steps → s.cur.owner = .port p) →
    s.sched = ackMoves s.tClkNs l ++ rest →
    ∃ t, runTrace (ackMoves s.tClkNs l).length s = some (l.flatMap (s.stepEvents p), t) ∧ Ready s t rest ∧
      t.seqStep.toNat = s.steps.length ∧ t.txSub = 0 := by
  intro l
  induction l with
  | nil =>
    intro s hv hw ht hj hlen hle hd ho hsch
    refine ⟨s, by simp [ackMoves, runTrace], ⟨Kept.refl s, hw, ht, by simpa [ackMoves] using hsch⟩, ?_, hj⟩
    simp at hd; omega
  | cons st l ih =>
    intro s hv hw ht hj hlen hle hd ho hsch
    have hc : s.currentStep = some st := getElem?_of_drop hd
    have hk := congrArg List.length hd
    simp at hk
    obtain ⟨t, h1, h2, h3, h4⟩ := macroStep_run (p := p) (rest := ackMoves s.tClkNs l ++ rest) s hv hw ht hc hj
      (fun i e => ho i (by subst e; exact List.mem_of_getElem? hc)) (by simpa [ackMoves] using hsch)
    have h3' : t.seqStep.toNat = s.seqStep.toNat + 1 := by
      rw [h3, BitVec.toNat_add]; simp; omega
    obtain ⟨u, g1, g2, g3, g4⟩ := ih t (by rw [h2.1.cur]; exact hv) h2.2 h2.3 h4 (by rw [h2.1.steps]; exact hlen)
      (by rw [h2.1.steps]; omega) (by rw [h2.1.steps, h3', ← List.drop_drop, hd]; rfl)
      (by rw [h2.1.steps, h2.1.cur]; exact ho) (by rw [h2.4, h2.1.tClkNs])
    rw [h2.1.tClkNs, stepEvents_kept h2.1] at g1
    rw [h2.1.steps] at g3
    refine ⟨u, ?_, ⟨h2.1.trans g2.1, g2.2, g2.3, g2.4⟩, g3, g4⟩
    have := runTrace_append h1 g1
    simp only [ackMoves, List.flatMap_cons, List.length_append] at this ⊢
    exact this

end Sys2Proof.Machine
end

