-- ==== Sys2Proof/Tests/Slice0.lean ====
section
/-! SUPPORT. The model's own tests. Expected results are the spec's: its examples (R80, R127, R150, R156 to R169, R175
to R180), its vectors (V1 to V91 of 95_test_vectors.md), or a word written out from R70 and R71. Then, for every
statement with hypotheses, a named state that meets them. -/

namespace Sys2Proof.Tests

open Sys2Proof Sys2Proof.Machine

/-! ### Well-formedness: what the checks refuse (R8, R73, R74) -/

theorem test_wf_refuses_len_of_17_bits : (Instr.print 65536).wf = false := by decide
theorem test_wf_refuses_col_of_9_bits : (Instr.setCursor 256 0).wf = false := by decide
theorem test_wf_refuses_row_of_9_bits : (Instr.setCursor 0 256).wf = false := by decide
theorem test_wf_accepts_the_widest : (Instr.print 65535).wf = true ∧ (Instr.setCursor 255 255).wf = true := by decide
theorem test_wf_refuses_rows_0 : ({ Cfg.default with rows := 0 } : Cfg).wf = false := by decide
theorem test_wf_refuses_rows_5 : ({ Cfg.default with rows := 5 } : Cfg).wf = false := by decide
theorem test_wf_accepts_rows_1_to_4 : ∀ r ∈ [1, 2, 3, 4], ({ Cfg.default with rows := r } : Cfg).wf = true := by decide

/-! ### Decoding, one word per operation, written out bit by bit from R70 and R71: opcode, high byte, low byte -/

theorem test_decode_init : decode 0b00000000_00000000_00000000 = .request .init := by decide
theorem test_decode_print : decode 0b00000001_00000011_00100010 = .request (.print 802) := by decide
theorem test_decode_clear : decode 0b00000010_00000000_00000000 = .request .clear := by decide
theorem test_decode_home : decode 0b00000011_00000000_00000000 = .request .home := by decide
theorem test_decode_setCursor : decode 0b00000100_00000001_00000101 = .request (.setCursor 5 1) := by decide
theorem test_decode_display : decode 0b00000101_00000000_00000000 = .request .display := by decide
theorem test_decode_noDisplay : decode 0b00000110_00000000_00000000 = .request .noDisplay := by decide
theorem test_decode_cursor : decode 0b00000111_00000000_00000000 = .request .cursor := by decide
theorem test_decode_noCursor : decode 0b00001000_00000000_00000000 = .request .noCursor := by decide
theorem test_decode_blink : decode 0b00001001_00000000_00000000 = .request .blink := by decide
theorem test_decode_noBlink : decode 0b00001010_00000000_00000000 = .request .noBlink := by decide
theorem test_decode_scrollLeft : decode 0b00001011_00000000_00000000 = .request .scrollLeft := by decide
theorem test_decode_scrollRight : decode 0b00001100_00000000_00000000 = .request .scrollRight := by decide
theorem test_decode_leftToRight : decode 0b00001101_00000000_00000000 = .request .leftToRight := by decide
theorem test_decode_rightToLeft : decode 0b00001110_00000000_00000000 = .request .rightToLeft := by decide
theorem test_decode_autoscroll : decode 0b00001111_00000000_00000000 = .request .autoscroll := by decide
theorem test_decode_noAutoscroll : decode 0b00010000_00000000_00000000 = .request .noAutoscroll := by decide
theorem test_decode_close : decode 0b00010001_00000000_00000000 = .request .close := by decide

/-- V63, R75: argument bits of format N are ignored. -/
theorem test_decode_ignored_bits : decode 0x07ABCD = .request .cursor ∧ decode 0x02FFFF = .request .clear ∧
    decode 0x11FFFF = .request .close ∧ decode 0x05FFFF = .request .display := by decide

/-- V76, R80: the boundary of the legal opcodes. -/
theorem test_decode_illegal : decode 0x120000 = .illegalOpcode 0x12 ∧ decode 0x800000 = .illegalOpcode 0x80 ∧
    decode 0xFF0000 = .illegalOpcode 0xFF := by decide

theorem test_decodeTableWord : decodeTableWord 24 0x040105 = some (.setCursor 5 1) ∧
    decodeTableWord 24 0x110000 = some .close ∧ decodeTableWord 24 0x120000 = none := by decide

/-! ### Small states -/

/-- The open idle engine that a reset with `SUPPRESS_AUTO_INIT = 1` leaves (R220), with moves to come. -/
def idle (moves : List Move) : State :=
  { State.reset with
    cur := { State.reset.cur with valid := false }, steps := [], eng := .opened, sched := moves }

/-- The same with a word posted on port 0 and the text "Hi" in its buffer (R150). -/
def posted (w : Word) (moves : List Move) : State :=
  { idle moves with ports := [{ pend := .posted w, txt := [(0, 0x48), (1, 0x69)] }] }

/-- An operation of port 0 in progress, at the given position. -/
def running (i : Instr) (k : BitVec 8) (j : BitVec 4) (moves : List Move) : State :=
  { idle moves with
    cur := { valid := true, owner := .port 0, op := opcode i, arg := argument i, start := 0 }
    lock := some 0
    steps := stepListOf Cfg.default i
    seqStep := k
    txSub := j
    ports := [{ pend := .granted, txt := [(0, 0x48), (1, 0x69)] }] }

/-- CLEAR with its RS write in flight (R178, R102). -/
def inFlight (moves : List Move) : State := { running .clear 0 0 moves with frv := 0x01, pw := some (.rs, false) }

/-- CLEAR in its 3 ms wait, five clock periods before the end. -/
def waiting (moves : List Move) : State := { running .clear 1 0 moves with frv := 0x01, tmr := 5 }

/-- The engine after CLOSE has ended (V70), with a word posted. -/
def closedPosted (w : Word) (moves : List Move) : State := { posted w moves with eng := .closed, oe := false }

/-- The automatic initialization at its start (R123), with moves to come. -/
def boot (moves : List Move) : State := { State.reset with sched := moves }

/-- The automatic initialization at its first nibble, `E<-1` in flight (V20). -/
def bootInFlight (moves : List Move) : State :=
  { boot moves with seqStep := 1, frv := 0x03, pw := some (.e, true) }

/-- What a step leads to, as far as `f` sees it. -/
def after {α : Type} (f : State → α) (s : State) : Option α :=
  match step s with
  | .next t => some (f t)
  | .fault _ => none
  | .refused _ => none

/-- What a meaning leads to, as far as `f` sees it. -/
def afterExec {α : Type} (f : State → α) (i : Instr) (s : State) : Option α :=
  match exec i s with
  | .next t => some (f t)
  | .fault _ => none
  | .refused _ => none

/-! ### The meanings, on the spec's vectors -/

/-- V50, V50b. -/
theorem test_display : afterExec (·.dcr) .display { idle [] with dcr := 0x08 } = some 0x0C ∧
    afterExec (·.dcr) .display (idle []) = some 0x0C := by decide
/-- V51, V51b. -/
theorem test_noDisplay : afterExec (·.dcr) .noDisplay (idle []) = some 0x08 ∧
    afterExec (·.dcr) .noDisplay { idle [] with dcr := 0x0F } = some 0x0B := by decide
/-- V52. -/
theorem test_cursor : afterExec (·.dcr) .cursor (idle []) = some 0x0E := by decide
/-- V53, V53b. -/
theorem test_noCursor : afterExec (·.dcr) .noCursor { idle [] with dcr := 0x0E } = some 0x0C ∧
    afterExec (·.dcr) .noCursor (idle []) = some 0x0C := by decide
/-- V54. -/
theorem test_blink : afterExec (·.dcr) .blink (idle []) = some 0x0D := by decide
/-- V55. -/
theorem test_noBlink : afterExec (·.dcr) .noBlink { idle [] with dcr := 0x0F } = some 0x0E := by decide
/-- V56: registers unchanged, the byte 0x18. -/
theorem test_scrollLeft : afterExec (fun t => (t.dcr, t.dmr, t.steps)) .scrollLeft (idle []) =
    some (0x0C, 0x06, [.byte 0x18 false]) := by decide
/-- V57. -/
theorem test_scrollRight : afterExec (fun t => (t.dcr, t.dmr, t.steps)) .scrollRight (idle []) =
    some (0x0C, 0x06, [.byte 0x1C false]) := by decide
/-- V58. -/
theorem test_leftToRight : afterExec (·.dmr) .leftToRight { idle [] with dmr := 0x04 } = some 0x06 := by decide
/-- V59. -/
theorem test_rightToLeft : afterExec (·.dmr) .rightToLeft (idle []) = some 0x04 := by decide
/-- V60, and V62's second half. -/
theorem test_autoscroll : afterExec (·.dmr) .autoscroll (idle []) = some 0x07 ∧
    afterExec (·.dmr) .autoscroll { idle [] with dmr := 0x04 } = some 0x05 := by decide
/-- V61, V61b. -/
theorem test_noAutoscroll : afterExec (·.dmr) .noAutoscroll { idle [] with dmr := 0x07 } = some 0x06 ∧
    afterExec (·.dmr) .noAutoscroll (idle []) = some 0x06 := by decide
/-- V65: byte 0x01, then 3 ms. -/
theorem test_clear : afterExec (·.steps) .clear (idle []) = some [.byte 0x01 false, .wait 3000] := by decide
/-- V66: byte 0x02, then 3 ms. -/
theorem test_home : afterExec (·.steps) .home (idle []) = some [.byte 0x02 false, .wait 3000] := by decide
/-- V70. -/
theorem test_close : afterExec (fun t => (t.closedQ, t.oeQ, t.engQ, t.steps)) .close (idle []) =
    some (true, false, 2, []) := by decide
/-- R127: `ROWS = 2`, the bytes of INIT at reset values. -/
theorem test_init : afterExec (fun t => (t.steps.length, t.steps[8]?, t.steps[13]?)) .init
    { idle [] with cfg := { Cfg.default with rows := 2 } } = some (14, some (.byte 0x28 false), some (.wait 3000)) := by
  decide

/-- R122: the function-set bytes for one row, one row with the large font, and more rows (the font then ignored). -/
theorem test_functionSet : functionSet Cfg.default = 0x20 ∧
    functionSet { Cfg.default with largeFont := true } = 0x24 ∧
    functionSet { Cfg.default with rows := 4, largeFont := true } = 0x28 := by decide

/-- V40 to V46: the byte sent, with the two rows of C2's disagreement among them. -/
theorem test_setCursor : cursorByte Cfg.default 0 0 = 0x80 ∧
    cursorByte { Cfg.default with rows := 2 } 5 1 = 0xC5 ∧ cursorByte { Cfg.default with rows := 4 } 7 5 = 0xDB ∧
    cursorByte Cfg.default 0 1 = 0x80 ∧ cursorByte { Cfg.default with rows := 3 } 0 3 = 0x94 ∧
    cursorByte { Cfg.default with rows := 4 } 0 4 = 0xD4 ∧ cursorByte { Cfg.default with rows := 2 } 200 0 = 0xC8 ∧
    cursorByte { Cfg.default with rows := 4 } 172 3 = 0x80 ∧ cursorByte { Cfg.default with rows := 4 } 255 3 = 0xD3 ∧
    cursorByte { Cfg.default with rows := 4 } 0 255 = 0xD4 := by decide

/-- R147, V30 to V38: the start index at the lengths where the rule changes. -/
theorem test_startIndex : startIndex 0 = 0 ∧ startIndex 80 = 0 ∧ startIndex 159 = 0 ∧ startIndex 160 = 80 ∧
    startIndex 802 = 720 ∧ startIndex 65535 = 65440 := by decide
/-- R150: PRINT "Hi" walks `Char(0)`, `Char(1)`. -/
theorem test_print : afterExec (fun t => (t.cur.start, t.steps)) (.print 2) (idle []) =
    some (0, [.char 0, .char 1]) := by decide

/-! ### The transmitter, on the spec's vectors -/

/-- V1, and V8's bit order. -/
theorem test_nib : (nibSubsteps 0x3).take 6 =
    [.write .e true, .write .d0 true, .write .d1 true, .write .d2 false, .write .d3 false, .write .e false] ∧
    (nibSubsteps 0xA).take 5 =
      [.write .e true, .write .d0 false, .write .d1 true, .write .d2 false, .write .d3 true] := by decide

/-- V4, V5: what a receiver latches, and the last waits. -/
theorem test_byte : latched Pins.low ((byteSubsteps 0x28 false).flatMap substepEvents) = [(false, 2), (false, 8)] ∧
    latched Pins.low ((byteSubsteps 0x48 true).flatMap substepEvents) = [(true, 4), (true, 8)] ∧
    (byteSubsteps 0x28 false).getLast? = some (.wait 39) ∧ (byteSubsteps 0x48 true).getLast? = some (.wait 43) := by
  decide

/-- V85: clock counts. -/
theorem test_timerLoad : [1, 39, 43, 160, 4100, 15000, 3000].map (timerLoad · 3000) =
    [1, 13, 15, 54, 1367, 5000, 1000] ∧ [1, 39, 43, 160].map (timerLoad · 250) = [4, 156, 172, 640] := by decide

/-- V65: substep 9 of CLEAR's byte is `D0<-1`. -/
theorem test_issue : after (·.pw) { running .clear 0 9 [.engine] with frv := 0x01 } = some (some (.d0, true)) := by
  decide

/-- R146: the text read and the RS write of a character are one step (V29's first byte). -/
theorem test_char : after (fun t => (t.frv, t.frm, t.out)) (running (.print 2) 0 0 [.engine]) =
    some (0x48, true, [.textRead 0 0x48, .issued .rs true]) := by decide

/-- R103: `ack` moves the position on; V14: `ack` with `err` does not, and ends the operation with ERR_IO on pin 4. -/
theorem test_answers : after (fun t => (t.txSub, t.pw)) (inFlight [.pinAnswer true false]) = some (1, none) ∧
    after (fun t => (t.lock, t.pend 0)) (inFlight [.pinAnswer true true]) =
      some (none, some (.finishing 0x02 .errIo 4)) := by decide

/-! ### The arbiter and reset -/

/-- R220: the first step after reset starts `Wait(T_PWRON)`. -/
theorem test_first_step : after (fun t => (t.tmr, t.out)) State.reset = some (15000, [.waitBegun 15000]) := by decide

/-- The first instruction after reset, through `withFetchWord`. -/
theorem test_withFetchWord : after (fun t => (t.lock, t.dcr, t.steps, t.cur.op)) (State.reset.withFetchWord 24 0x070000) =
    some (some 0, 0x0E, [.reg .dcr], 0x07) := by decide

/-- V71, V72: rejections while closed. -/
theorem test_reject_closed : after (fun t => t.pend 0) (closedPosted 0x050000 [.reject 0]) =
      some (some (.finishing 0x05 .errClosed 0)) ∧
    after (fun t => t.pend 0) (closedPosted 0x120000 [.reject 0]) =
      some (some (.finishing 0x12 .errProgramming 0)) := by decide

/-- V90: reset in mid-operation, with and without the automatic initialization. -/
theorem test_reset : after (fun t => (t.engQ, t.busyQ, t.pend 0, t.pw)) (inFlight [.reset Cfg.default]) =
      some (0, true, some .idle, none) ∧
    after (fun t => (t.engQ, t.busyQ)) (inFlight [.reset { Cfg.default with suppressAutoInit := true }]) =
      some (1, false) := by decide

/-! ### States that meet the invariant -/

theorem inv_of_cfg (s : State) (hr : s.dcr = 0x0C) (hm : s.dmr = 0x06) (ht : ∀ q ∈ s.ports, Memory.wf q.txt = true)
    (hp : s.ports ≠ []) (hc : s.cfg = Cfg.default) (hk : s.tClkNs = 1000) :
    s.RegsLegal ∧ s.TextsWf ∧ s.ParamsLegal := by
  refine ⟨?_, ht, ?_⟩
  · unfold State.RegsLegal; rw [hr, hm]; decide
  · unfold State.ParamsLegal; rw [hc, hk]; exact ⟨by decide, by decide, hp⟩

theorem texts_hi (x : Pend) : ∀ q ∈ [({ pend := x, txt := [(0, 0x48), (1, 0x69)] } : Port)], Memory.wf q.txt = true := by
  intro q hq; rw [List.mem_singleton] at hq; subst hq; rfl

theorem inv_posted (w : Word) (moves : List Move) : (posted w moves).Inv := by
  obtain ⟨h1, h2, h3⟩ := inv_of_cfg (posted w moves) rfl rfl (texts_hi _) (by simp [posted]) rfl rfl
  refine ⟨h1, h2, h3, ⟨?_, ?_, ?_⟩, ?_, ?_, ?_, ?_, ?_, ?_, ?_⟩
  · intro p; simp [posted, idle, State.reset]
  · intro p; cases p <;> simp [posted, idle, State.reset, State.pend]
  · simp [posted, idle]
  · simp [State.PinsOwned, posted, idle, State.reset]
  · intro h; simp [posted, idle] at h
  · intro h; simp [posted, idle] at h
  · intro h; simp [posted, idle] at h
  · intro pin b h; simp [posted, idle, State.reset] at h
  · intro h; simp [posted, idle, State.reset] at h
  · intro _; simp [posted, idle, State.reset]

theorem inv_closedPosted (w : Word) (moves : List Move) : (closedPosted w moves).Inv := by
  obtain ⟨h1, h2, h3⟩ := inv_of_cfg (closedPosted w moves) rfl rfl (texts_hi _) (by simp [closedPosted, posted]) rfl rfl
  refine ⟨h1, h2, h3, ⟨?_, ?_, ?_⟩, ?_, ?_, ?_, ?_, ?_, ?_, ?_⟩
  · intro p; simp [closedPosted, posted, idle, State.reset]
  · intro p; cases p <;> simp [closedPosted, posted, idle, State.reset, State.pend]
  · simp [closedPosted, posted, idle]
  · simp [State.PinsOwned, closedPosted]
  · intro h; simp [closedPosted, posted, idle] at h
  · intro h; simp [closedPosted, posted, idle] at h
  · intro h; simp [closedPosted, posted, idle] at h
  · intro pin b h; simp [closedPosted, posted, idle, State.reset] at h
  · intro h; simp [closedPosted, posted, idle, State.reset] at h
  · intro _; simp [closedPosted, posted, idle, State.reset]

theorem inv_boot (moves : List Move) : (boot moves).Inv := by
  have ht : ∀ q ∈ (boot moves).ports, Memory.wf q.txt = true := by
    intro q hq; simp [boot, State.reset] at hq; subst hq; rfl
  obtain ⟨h1, h2, h3⟩ := inv_of_cfg (boot moves) rfl rfl ht (by simp [boot, State.reset]) rfl rfl
  refine ⟨h1, h2, h3, ⟨?_, ?_, ?_⟩, ?_, ?_, ?_, ?_, ?_, ?_, ?_⟩
  · intro p; simp [boot, State.reset]
  · intro p; cases p <;> simp [boot, State.reset, State.pend, Port.fresh]
  · simp [boot, State.reset]
  · simp [State.PinsOwned, boot, State.reset]
  · intro _; exact ⟨.init, rfl, rfl, by simp [boot, State.reset], fun _ => rfl, by simp⟩
  · intro _; show (0 : Nat) < 1; decide
  · intro _ st _ h; simp [boot, State.reset] at h
  · intro pin b h; simp [boot, State.reset] at h
  · intro h; simp [boot, State.reset] at h
  · intro h; simp [boot, State.reset] at h

theorem inv_bootInFlight (moves : List Move) : (bootInFlight moves).Inv := by
  obtain ⟨h1, h2, h3, h4, h5, h6, -, -, -, -, -⟩ := inv_boot moves
  refine ⟨h1, h2, h3, ⟨h4.1, h4.2, h4.3⟩, h5, h6, ?_, ?_, ?_, ?_, ?_⟩
  · intro _; show (0 : Nat) < 7; decide
  · intro _ st h _; cases h; rfl
  · intro pin b h; cases h; exact ⟨rfl, rfl, rfl⟩
  · intro h; simp [bootInFlight, boot, State.reset] at h
  · intro h; simp [bootInFlight, boot, State.reset] at h

/-- The parts of the invariant that a running CLEAR meets wherever it is. -/
theorem inv_clear_parts (k : BitVec 8) (j : BitVec 4) (moves : List Move) :
    (running .clear k j moves).RegsLegal ∧ (running .clear k j moves).TextsWf ∧ (running .clear k j moves).ParamsLegal ∧
    (running .clear k j moves).LockConsistent ∧ (running .clear k j moves).PinsOwned ∧
    (running .clear k j moves).CurNamesSteps := by
  obtain ⟨h1, h2, h3⟩ := inv_of_cfg (running .clear k j moves) rfl rfl (texts_hi _) (by simp [running]) rfl rfl
  refine ⟨h1, h2, h3, ⟨?_, ?_, ?_⟩, ?_, ?_⟩
  · intro p; simp [running, eq_comm]
  · intro p; cases p <;> simp [running, State.pend]
  · simp [running, idle]
  · simp [State.PinsOwned, running, idle, State.reset]
  · intro _; exact ⟨.clear, rfl, rfl, by simp [running, idle], by simp [running], by simp⟩

theorem inv_inFlight (moves : List Move) : (inFlight moves).Inv := by
  obtain ⟨h1, h2, h3, h4, h5, h6⟩ := inv_clear_parts 0 0 moves
  refine ⟨h1, h2, h3, ⟨h4.1, h4.2, h4.3⟩, h5, h6, ?_, ?_, ?_, ?_, ?_⟩
  · intro _; show (0 : Nat) < 16; decide
  · intro _ st h _; cases h; exact ⟨rfl, rfl⟩
  · intro pin b h; cases h; exact ⟨rfl, rfl, rfl⟩
  · intro h; simp [inFlight, running, idle, State.reset] at h
  · intro h; simp [inFlight, running] at h

theorem inv_waiting (moves : List Move) : (waiting moves).Inv := by
  obtain ⟨h1, h2, h3, h4, h5, h6⟩ := inv_clear_parts 1 0 moves
  refine ⟨h1, h2, h3, ⟨h4.1, h4.2, h4.3⟩, h5, h6, ?_, ?_, ?_, ?_, ?_⟩
  · intro _; show (0 : Nat) < 1; decide
  · intro _ st h _; cases h; trivial
  · intro pin b h; cases h
  · intro _; exact ⟨rfl, 3000, rfl, by show 5 ≤ timerLoad 3000 1000; decide⟩
  · intro h; simp [waiting, running] at h

/-- CLEAR between two substeps, its frame loaded: the first write of its low nibble is next (R102, substep 8). -/
def between (moves : List Move) : State := { running .clear 0 8 moves with frv := 0x01 }

theorem inv_between (moves : List Move) : (between moves).Inv := by
  obtain ⟨h1, h2, h3, h4, h5, h6⟩ := inv_clear_parts 0 8 moves
  refine ⟨h1, h2, h3, ⟨h4.1, h4.2, h4.3⟩, h5, h6, ?_, ?_, ?_, ?_, ?_⟩
  · intro _; show (8 : Nat) < 16; decide
  · intro _ st h _; cases h; exact ⟨rfl, rfl⟩
  · intro pin b h; cases h
  · intro h; simp [between, running, idle, State.reset] at h
  · intro h; simp [between, running] at h

/-- CLEAR at the end of its list: the end step is next (R138). -/
def ending (moves : List Move) : State := { running .clear 2 0 moves with frv := 0x01 }

theorem inv_ending (moves : List Move) : (ending moves).Inv := by
  obtain ⟨h1, h2, h3, h4, h5, h6⟩ := inv_clear_parts 2 0 moves
  refine ⟨h1, h2, h3, ⟨h4.1, h4.2, h4.3⟩, h5, h6, ?_, ?_, ?_, ?_, ?_⟩
  · intro _; exact ⟨rfl, rfl⟩
  · intro _ st h _; cases h
  · intro pin b h; cases h
  · intro h; simp [ending, running, idle, State.reset] at h
  · intro h; simp [ending, running] at h

/-! ### Witnesses: for every statement with hypotheses, a state and operands that meet them together -/

theorem witness_DecodeOfEncode : (Instr.print 65535).wf = true ∧ (Instr.setCursor 255 255).wf = true ∧
    Instr.close.wf = true := by decide

theorem witness_EncodeOfDecode : decode 0x01FFFF = .request (.print 65535) ∧ opField 0x01FFFF = 0x01 ∧
    decode 0x04FFFF = .request (.setCursor 255 255) ∧ opField 0x04FFFF = 0x04 ∧
    decode 0x11FFFF = .request .close ∧ opField 0x11FFFF ≠ 0x01 ∧ opField 0x11FFFF ≠ 0x04 := by decide

theorem witness_OpcodeDecides : (opField 0x11ABCD).toNat ≤ 0x11 ∧ 0x12 ≤ (opField 0x12ABCD).toNat := by decide

theorem witness_ArgumentBitsIgnored : (0x00 : Byte) ≠ 0x01 ∧ (0x05 : Byte) ≠ 0x04 ∧
    opcode .home ≠ 0x01 ∧ opcode .display ≠ 0x04 := by decide

theorem witness_SetCursorSendsAddress : (idle []).cfg.wf = true ∧
    0 = (if (idle []).cfg.rows ≤ 1 then (idle []).cfg.rows - 1 else 1) ∧
    ([0x00, 0x40, 0x14, 0x54] : List Byte)[0]? = some 0x00 ∧
    ({ Cfg.default with rows := 4 } : Cfg).wf = true ∧ 3 = (if 4 ≤ 4 then 4 - 1 else 4) ∧
    ([0x00, 0x40, 0x14, 0x54] : List Byte)[3]? = some 0x54 := by decide

theorem witness_PrintWalksFromStartIndex : (65535 < 65536 ∧ 65440 = if 1 < 65535 / 80 then (65535 / 80 - 1) * 80 else 0) ∧
    (159 < 65536 ∧ 0 = if 1 < 159 / 80 then (159 / 80 - 1) * 80 else 0) ∧
    (160 < 65536 ∧ 80 = if 1 < 160 / 80 then (160 / 80 - 1) * 80 else 0) ∧ 0 < 65535 - 65440 := by decide

theorem witness_InitWalksFourteenSteps : (idle []).cfg.rows = 1 ∧
    1 < ({ idle [] with cfg := { Cfg.default with rows := 2 } } : State).cfg.rows := by decide

theorem witness_MeaningsFrame : (∃ t, exec .close (idle []) = .next t) ∧ (∃ t, exec (.print 2) (idle []) = .next t) ∧
    Instr.clear ≠ .close ∧ ∀ len, Instr.clear ≠ .print len :=
  ⟨⟨_, rfl⟩, ⟨_, rfl⟩, by decide, by simp⟩

theorem witness_SetClearForcesOneBit :
    (Instr.noAutoscroll, Reg.dmr, 0, false) ∈ [(Instr.display, Reg.dcr, 2, true), (.noDisplay, .dcr, 2, false),
      (.cursor, .dcr, 1, true), (.noCursor, .dcr, 1, false), (.blink, .dcr, 0, true), (.noBlink, .dcr, 0, false),
      (.leftToRight, .dmr, 1, true), (.rightToLeft, .dmr, 1, false), (.autoscroll, .dmr, 0, true),
      (.noAutoscroll, .dmr, 0, false)] ∧ Reg.dcr ≠ .dmr ∧ 7 ≠ 0 := by decide

theorem witness_StepRunsGrantedRequest (moves : List Move) : (posted 0x070000 moves).pend 0 = some (.posted 0x070000) ∧
    decode 0x070000 = .request .cursor ∧ (posted 0x070000 moves).eng = .opened ∧
    (posted 0x070000 moves).cur.valid = false ∧ (posted 0x070000 moves).lock = none := ⟨rfl, rfl, rfl, rfl, rfl⟩

theorem witness_StepRunsGrantedRequest_scheduled : (posted 0x070000 [.grant 0]).sched.head? = some (.grant 0) := rfl

theorem witness_StepRunsGrantedRequest_unscheduled :
    (posted 0x070000 []).sched = [] ∧ (posted 0x070000 []).ownMoves = [.grant 0] := by decide

theorem witness_EligiblePorts : (posted 0x110000 []).eligible 0 = true ∧
    (posted 0x120000 [.grant 0]).sched = [.grant 0] ∧ (posted 0x120000 [.grant 0]).eligible 0 = false := by decide

theorem witness_UnscheduledStepIsEnabled : (idle []).sched = [] ∧ (idle []).ownMoves = [] ∧
    (posted 0x070000 []).sched = [] ∧ (posted 0x070000 []).eligible 0 = true ∧ (posted 0x070000 []).ownMoves ≠ [] ∧
    State.reset.sched = [] ∧ Move.engine ∈ State.reset.ownMoves ∧
    Move.reject 0 ∈ (posted 0x120000 []).ownMoves := by decide

theorem witness_PostingAndChangingAWord :
    (idle [.post 0 0x070000]).pend 0 = some .idle ∧ (idle [.post 0 0x070000]).sched = [.post 0 0x070000] ∧
    (posted 0 [.post 0 0x070000]).pend 0 = some (.posted 0) ∧ Pend.posted 0 ≠ .idle ∧
    (posted 0 [.changeWord 0 0x070000]).sched = [.changeWord 0 0x070000] ∧
    (inFlight [.changeWord 0 0x070000]).pend 0 = some .granted ∧ ∀ v, Pend.granted ≠ .posted v :=
  ⟨rfl, rfl, rfl, by decide, rfl, rfl, by simp⟩

theorem witness_RejectionsChangeOnlyTheRequest :
    (posted 0x12FFFF [.reject 0]).pend 0 = some (.posted 0x12FFFF) ∧ 0x11 < (opField 0x12FFFF).toNat ∧
    (closedPosted 0x110000 [.reject 0]).pend 0 = some (.posted 0x110000) ∧ (opField 0x110000).toNat ≤ 0x11 ∧
    (closedPosted 0x110000 [.reject 0]).eng = .closed ∧ (closedPosted 0x110000 [.reject 0]).sched = [.reject 0] ∧
    (posted 0x110000 [.reject 0]).pend 0 = some (.posted 0x110000) ∧ (posted 0x110000 [.reject 0]).eng ≠ .closed := by
  decide

theorem witness_EndReleasesTheLock : (ending [.engine]).cur.valid = true ∧ (ending [.engine]).cur.owner = .port 0 ∧
    (ending [.engine]).pw = none ∧ (ending [.engine]).steps.length ≤ (ending [.engine]).seqStep.toNat ∧
    (ending [.engine]).sched = [.engine] := by decide

/-- A finished request (R142). -/
def finished (moves : List Move) : State := { idle moves with ports := [{ pend := .finishing 0x02 .ok 0, txt := [] }] }

theorem witness_CompletionFreesThePort : (finished [.complete 0]).pend 0 = some (.finishing 0x02 .ok 0) ∧
    (finished [.complete 0]).sched = [.complete 0] := by decide

/-- The automatic initialization past its last macro step (R123). -/
def booted (moves : List Move) : State := { boot moves with seqStep := 14 }

theorem witness_OutputPorts : (idle []).pw = none ∧ (inFlight []).pw = some (.rs, false) ∧
    (finished [.complete 0]).pend 0 = some (.finishing 0x02 .ok 0) ∧ (finished [.complete 0]).sched = [.complete 0] ∧
    1 ≠ 0 ∧ after (fun t => (t.doneOut 0, after (·.doneOut 0) t)) (finished [.complete 0, .idle]) =
      some (some (0, 0), some none) := by decide

theorem witness_OutputPorts_boot : (booted [.engine]).cur.valid = true ∧ (booted [.engine]).cur.owner = .auto ∧
    (booted [.engine]).pw = none ∧ (booted [.engine]).steps.length ≤ (booted [.engine]).seqStep.toNat ∧
    (booted [.engine]).sched = [.engine] ∧
    after (fun t => (t.readyOut, after (·.readyOut) t)) (booted [.engine, .idle]) = some (true, some false) ∧
    (bootInFlight [.pinAnswer true true]).cur.owner = .auto ∧ (bootInFlight [.pinAnswer true true]).pw = some (.e, true) ∧
    (bootInFlight [.pinAnswer true true]).sched = [.pinAnswer true true] ∧
    after (fun t => (t.bootErrOut, after (·.bootErrOut) t)) (bootInFlight [.pinAnswer true true, .idle]) =
      some (some 5, some none) := by decide

/-- D9, R146: the text index of a `Char`, and the read in the step that issues its first write. -/
theorem witness_OutputPorts_text : (running (.print 2) 1 0 [.engine]).txtIdx = some 1 ∧
    after (·.out) (running (.print 2) 1 0 [.engine]) = some [.textRead 1 0x69, .issued .rs true] := by decide

theorem witness_NamedNotifications : Status.errIo ≠ .ok ∧ 0x03 < (0x04 : Byte).toNat := by decide

theorem witness_RecordsAnswerRequestsOnce :
    after (fun t => t.out.contains (.done 0 0x02 .ok 0)) (finished [.complete 0]) = some true ∧
    after (fun t => t.out.contains (.ended 0 .ok 0)) (ending [.engine]) = some true ∧
    after (fun t => t.out.contains (.ended 0 .errIo 4)) (inFlight [.pinAnswer false true]) = some true ∧
    after (fun t => t.out.contains (.rejected 0 .errProgramming)) (posted 0x120000 [.reject 0]) = some true := by decide

theorem witness_FirstWriteLoadsTheFrame : (boot [.engine]).cur.valid = true ∧ (boot [.engine]).pw = none ∧
    (boot [.engine]).tmr = 0 ∧ (boot [.engine]).txSub = 0 ∧ (boot [.engine]).sched = [.engine] ∧
    ({ boot [.engine] with seqStep := 1 } : State).steps[1]? = some (.nib 0x3) ∧
    ({ boot [.engine] with seqStep := 12 } : State).steps[12]? = some (.byte 0x01 false) ∧
    ({ boot [.engine] with seqStep := 10 } : State).steps[10]? = some (.reg .dcr) ∧
    (running (.print 2) 0 0 [.engine]).steps[0]? = some (.char 0) ∧
    (running (.print 2) 0 0 [.engine]).cur.owner = .port 0 ∧ (running (.print 2) 0 0 [.engine]).cur.valid = true ∧
    (running (.print 2) 0 0 [.engine]).pw = none ∧ (running (.print 2) 0 0 [.engine]).tmr = 0 ∧
    (running (.print 2) 0 0 [.engine]).txSub = 0 := by decide

theorem witness_LaterWritesUseTheFrame : (between [.engine]).cur.valid = true ∧ (between [.engine]).pw = none ∧
    (between [.engine]).tmr = 0 ∧ (between [.engine]).txSub ≠ 0 ∧
    (between [.engine]).currentSubstep = some (.write .e true) ∧ (between [.engine]).sched = [.engine] := by decide

theorem witness_AckAdvancesThePosition : (inFlight [.pinAnswer true false]).pw = some (.rs, false) ∧
    (inFlight [.pinAnswer true false]).steps[0]? = some (.byte 0x01 false) ∧
    (inFlight [.pinAnswer true false]).seqStep.toNat = 0 ∧
    (inFlight [.pinAnswer true false]).txSub.toNat + 1 < substepCount (.byte 0x01 false) ∧
    (inFlight [.pinAnswer true false]).sched = [.pinAnswer true false] := by decide

/-- CLEAR in the last clock period of one of its byte's waits. -/
def lastPeriod (j : BitVec 4) : State := { running .clear 0 j [.engine] with frv := 0x01, tmr := 1 }

theorem witness_WaitEndAdvancesThePosition :
    (∀ j ∈ [(7 : BitVec 4), 14, 15], (lastPeriod j).cur.valid = true ∧ (lastPeriod j).pw = none ∧ (lastPeriod j).tmr = 1 ∧
      (lastPeriod j).steps[0]? = some (.byte 0x01 false) ∧ (lastPeriod j).seqStep.toNat = 0 ∧
      (lastPeriod j).sched = [.engine]) ∧
    (lastPeriod 14).currentSubstep = some (.wait 1) ∧ (lastPeriod 14).txSub.toNat + 1 < substepCount (.byte 0x01 false) ∧
    (lastPeriod 15).currentSubstep = some (.wait 39) ∧
    substepCount (.byte 0x01 false) ≤ (lastPeriod 15).txSub.toNat + 1 := by decide

theorem witness_FailedWriteAborts : (inFlight [.pinAnswer true true]).pw = some (.rs, false) ∧
    (inFlight [.pinAnswer true true]).cur.owner = .port 0 ∧
    (inFlight [.pinAnswer true true]).sched = [.pinAnswer true true] := by decide

theorem witness_BootEndsReadyOrWithError :
    (let s : State := { boot [.engine] with seqStep := 14 }
     s.cur.valid = true ∧ s.cur.owner = .auto ∧ s.pw = none ∧ s.steps.length ≤ s.seqStep.toNat ∧ s.sched = [.engine]) ∧
    (bootInFlight [.pinAnswer false true]).cur.valid = true ∧ (bootInFlight [.pinAnswer false true]).cur.owner = .auto ∧
    (bootInFlight [.pinAnswer false true]).pw = some (.e, true) ∧
    (bootInFlight [.pinAnswer false true]).sched = [.pinAnswer false true] := by decide

theorem noReset_of_head {s : State} {m : Move} (h : s.sched.head? = some m) (hm : ∀ c, m ≠ .reset c) : s.noReset := by
  intro c e; rw [h] at e; cases e; exact hm c rfl

theorem witness_UnansweredWriteHoldsTheEngine :
    (inFlight [.pinAnswer false false]).pw = some (.rs, false) ∧ (inFlight [.pinAnswer false false]).cur.valid = true ∧
    (inFlight [.pinAnswer false false]).noReset ∧
    (∀ ack err, (inFlight [.pinAnswer false false]).sched.head? = some (.pinAnswer ack err) → ack = false ∧ err = false) ∧
    (∀ p, (inFlight [.pinAnswer false false]).sched.head? ≠ some (.withdraw p)) ∧
    (idle [.pinAnswer true false]).pw = none ∧ (idle [.pinAnswer true false]).sched = [.pinAnswer true false] :=
  ⟨rfl, rfl, noReset_of_head rfl (by simp), (by intro a e h; cases h; exact ⟨rfl, rfl⟩), (by intro p h; cases h), rfl, rfl⟩

/-- R224, V91: a reset in mid-write, and the late `err` to the abandoned write while a new write is in flight. -/
theorem witness_UnansweredWriteHoldsTheEngine_late :
    (bootInFlight [.lateAnswer true true]).sched = [.lateAnswer true true] ∧
    (bootInFlight [.lateAnswer true true]).pw = some (.e, true) ∧
    after (fun t => (t.pw, t.out)) (bootInFlight [.lateAnswer true true]) = some (some (.e, true), []) ∧
    after (fun t => (t.pw, after (·.eng) t)) (inFlight [.reset Cfg.default, .lateAnswer false true]) =
      some (none, some .boot) := by decide

theorem witness_TimerLoadCoversTheWait : 1 ≤ 1000 ∧ 1 < timerLoad 39 1000 ∧ 1 ≤ 7000 ∧ timerLoad 1 7000 = 1 := by decide

theorem witness_WaitHoldsThePosition :
    (boot (.engine :: (List.replicate (timerLoad 15000 1000) .engine ++ []))).cur.valid = true ∧
    (boot []).pw = none ∧ (boot []).tmr = 0 ∧ (boot []).steps[(boot []).seqStep.toNat]? = some (.wait 15000) ∧
    (boot []).txSub = 0 ∧ (boot []).tClkNs = 1000 ∧ 0 < timerLoad 15000 1000 := by decide

theorem witness_WaitCannotBeCutShort : (waiting [.engine]).Inv ∧ 1 < (waiting [.engine]).tmr ∧ (waiting [.engine]).noReset ∧
    after (·.tmr) (waiting [.engine]) = some 4 :=
  ⟨inv_waiting _, by decide, noReset_of_head rfl (by simp), by decide⟩

/-- CLEAR, DISPLAY and PRINT at the start of the macro step that sends their byte, every write acknowledged. -/
def sending (i : Instr) (st : MacroStep) : State := running i 0 0 (ackMoves 1000 [st])

theorem witness_ReceiverLatchesTheByte :
    (∀ x ∈ [(Instr.clear, MacroStep.byte 0x01 false), (.display, .reg .dcr), (.print 2, .char 0)],
      (sending x.1 x.2).cur.valid = true ∧ (sending x.1 x.2).pw = none ∧ (sending x.1 x.2).tmr = 0 ∧
      (sending x.1 x.2).txSub = 0 ∧ (sending x.1 x.2).steps[(sending x.1 x.2).seqStep.toNat]? = some x.2) ∧
    (sending (.print 2) (.char 0)).cur.owner = .port 0 ∧ Memory.read ((sending (.print 2) (.char 0)).text 0) 0 = 0x48 ∧
    (∀ x ∈ [(Instr.clear, MacroStep.byte 0x01 false), (.display, .reg .dcr), (.print 2, .char 0)],
      (sending x.1 x.2).sched = ackMoves (sending x.1 x.2).tClkNs [x.2] ++ []) := by
  refine ⟨by decide, rfl, rfl, ?_⟩
  intro x hx
  simp only [List.append_nil]
  rfl

theorem witness_ReceiverLatchesTheByte_nib : (running .init 1 0 (ackMoves 1000 [.nib 0x3])).cur.valid = true ∧
    (running .init 1 0 (ackMoves 1000 [.nib 0x3])).pw = none ∧ (running .init 1 0 (ackMoves 1000 [.nib 0x3])).tmr = 0 ∧
    (running .init 1 0 (ackMoves 1000 [.nib 0x3])).txSub = 0 ∧
    (running .init 1 0 (ackMoves 1000 [.nib 0x3])).steps[(1 : Nat)]? = some (.nib 0x3) ∧
    (running .init 1 0 (ackMoves 1000 [.nib 0x3])).sched = ackMoves 1000 [.nib 0x3] ++ [] :=
  ⟨rfl, rfl, rfl, rfl, rfl, (List.append_nil _).symm⟩

theorem witness_PaginationArithmetic : 159 < 65536 ∧ 159 < 160 ∧ 160 < 65536 ∧ 160 ≤ 160 ∧ 65535 < 65536 := by decide

theorem witness_TextReadAfterWrite : Memory.wf [(0, 0x48), (1, 0x69)] = true ∧ 65535 < 65536 := by decide

theorem witness_TextWritesAreThePortsOwn : (posted 0 [.writeText 0 65535 0x41]).TextsWf ∧
    0 < (posted 0 [.writeText 0 65535 0x41]).ports.length ∧
    (posted 0 [.writeText 0 65535 0x41]).sched = [.writeText 0 65535 0x41] :=
  ⟨(inv_posted _ _).texts, by decide, rfl⟩

theorem witness_ResetFromAnyState : (inFlight [.reset Cfg.default]).sched = [.reset Cfg.default] ∧
    Cfg.default.wf = true ∧ ({ Cfg.default with rows := 4 } : Cfg).wf = true ∧
    ({ Cfg.default with rows := 0 } : Cfg).wf = false ∧ ({ Cfg.default with rows := 5 } : Cfg).wf = false := by decide

theorem witness_IdentifierBitsKept : (posted 0x080000 [.grant 0]).RegsLegal ∧
    after (·.dcr) (posted 0x080000 [.grant 0]) = some 0x0C := ⟨(inv_posted _ _).regs, by decide⟩

theorem witness_LockAgreementKept : (posted 0x080000 [.grant 0]).LockConsistent ∧
    after (fun t => (t.lock, t.pend 0)) (posted 0x080000 [.grant 0]) = some (some 0, some .granted) :=
  ⟨(inv_posted _ _).lock, by decide⟩

theorem witness_EveryStepKeepsInvariant : (inFlight [.pinAnswer true false]).Inv ∧
    after (·.txSub) (inFlight [.pinAnswer true false]) = some 1 ∧ (ending [.engine]).Inv ∧
    after (·.cur.valid) (ending [.engine]) = some false := ⟨inv_inFlight _, by decide, inv_ending _, by decide⟩

theorem witness_RunsNeverFault : (between [.engine]).Inv := inv_between _

theorem witness_RefusalsAreInputs : step (inFlight [.withdraw 0]) = .refused (.requestWithdrawn 0) ∧
    step (idle [.reset { Cfg.default with rows := 5 }]) = .refused .badConfiguration := ⟨rfl, rfl⟩

theorem witness_RegistersChangeOnlyAtGrants : (posted 0x070000 [.grant 0]).noReset ∧
    after (·.dcr) (posted 0x070000 [.grant 0]) = some 0x0E ∧ (posted 0x070000 [.grant 0]).dcr ≠ 0x0E ∧
    (posted 0x0F0000 [.grant 0]).noReset ∧
    after (·.dmr) (posted 0x0F0000 [.grant 0]) = some 0x07 ∧ (posted 0x0F0000 [.grant 0]).dmr ≠ 0x07 :=
  ⟨noReset_of_head rfl (by simp), by decide, by decide, noReset_of_head rfl (by simp), by decide, by decide⟩

theorem witness_ConfigurationIsImmutable : (idle [.idle]).noReset ∧ after (·.cfg.rows) (idle [.idle]) = some 1 ∧
    (idle [.reset { Cfg.default with rows := 4 }]).sched.head? = some (.reset { Cfg.default with rows := 4 }) ∧
    after (·.cfg.rows) (idle [.reset { Cfg.default with rows := 4 }]) = some 4 :=
  ⟨noReset_of_head rfl (by simp), by decide, rfl, by decide⟩

theorem witness_ColumnsHaveNoEffect : (posted 0x040105 [.grant 0]).noReset := noReset_of_head rfl (by simp)

theorem witness_PhaseTransitions : (posted 0x110000 [.grant 0]).Inv ∧ (posted 0x110000 [.grant 0]).noReset ∧
    after (·.eng) (posted 0x110000 [.grant 0]) = some .closed ∧
    (bootInFlight [.pinAnswer false true]).Inv ∧ (bootInFlight [.pinAnswer false true]).noReset ∧
    after (·.eng) (bootInFlight [.pinAnswer false true]) = some .opened ∧
    (inFlight [.reset Cfg.default]).sched.head? = some (.reset Cfg.default) ∧
    after (·.eng) (inFlight [.reset Cfg.default]) = some .boot :=
  ⟨inv_posted _ _, noReset_of_head rfl (by simp), by decide, inv_bootInFlight _, noReset_of_head rfl (by simp), by decide,
    rfl, by decide⟩

theorem witness_ClosedUntilReset : (closedPosted 0 [.reject 0]).Inv ∧ (closedPosted 0 [.reject 0]).eng = .closed ∧
    (closedPosted 0 [.reject 0]).noReset ∧ after (·.eng) (closedPosted 0 [.reject 0]) = some .closed :=
  ⟨inv_closedPosted _ _, rfl, noReset_of_head rfl (by simp), by decide⟩

theorem witness_NoPreemption : (inFlight [.pinAnswer true false]).Inv ∧
    (inFlight [.pinAnswer true false]).cur.valid = true ∧ (inFlight [.pinAnswer true false]).noReset ∧
    after (·.lock) (inFlight [.pinAnswer true false]) = some (some 0) ∧
    (ending [.engine]).Inv ∧ (ending [.engine]).cur.valid = true ∧ (ending [.engine]).noReset ∧
    after (·.lock) (ending [.engine]) = some none :=
  ⟨inv_inFlight _, rfl, noReset_of_head rfl (by simp), by decide, inv_ending _, rfl, noReset_of_head rfl (by simp),
    by decide⟩

theorem witness_PositionWalksForward : (inFlight [.pinAnswer true false]).Inv ∧
    (inFlight [.pinAnswer true false]).cur.valid = true ∧ (inFlight [.pinAnswer true false]).noReset ∧
    after (fun t => (t.cur.valid, t.seqStep, t.txSub)) (inFlight [.pinAnswer true false]) = some (true, 0, 1) :=
  ⟨inv_inFlight _, rfl, noReset_of_head rfl (by simp), by decide⟩

theorem witness_WritesBelongToTheOperation : (between [.engine]).Inv ∧
    after (fun t => t.out.contains (.issued .e true)) (between [.engine]) = some true := ⟨inv_between _, by decide⟩

/-- The moves of an acknowledged CURSOR (R158), from its grant to its end. -/
def cursorMoves : List Move := .grant 0 :: (ackMoves 1000 (stepListOf Cfg.default .cursor) ++ .engine :: [])

theorem witness_GrantedOperationRunsToItsEnd : (posted 0x070000 cursorMoves).Inv ∧
    (posted 0x070000 cursorMoves).eligible 0 = true ∧
    (posted 0x070000 cursorMoves).pend 0 = some (.posted 0x070000) ∧ decode 0x070000 = .request .cursor ∧
    (posted 0x070000 cursorMoves).sched =
      .grant 0 :: (ackMoves (posted 0x070000 cursorMoves).tClkNs
        (stepListOf (posted 0x070000 cursorMoves).cfg .cursor) ++ .engine :: []) :=
  ⟨inv_posted _ _, by decide, rfl, rfl, rfl⟩

/-- The moves of an acknowledged automatic initialization (R123). -/
def bootMoves : List Move := ackMoves 1000 (initSteps Cfg.default) ++ .engine :: []

theorem witness_AutomaticInitializationRuns : (boot bootMoves).Inv ∧ (boot bootMoves).cur.valid = true ∧
    (boot bootMoves).cur.owner = .auto ∧ (boot bootMoves).seqStep = 0 ∧ (boot bootMoves).txSub = 0 ∧
    (boot bootMoves).pw = none ∧ (boot bootMoves).tmr = 0 ∧
    (boot bootMoves).sched = ackMoves (boot bootMoves).tClkNs (initSteps (boot bootMoves).cfg) ++ .engine :: [] :=
  ⟨inv_boot _, rfl, rfl, rfl, rfl, rfl, rfl, rfl⟩

end Sys2Proof.Tests
end

/-! The scope and the parameters of the block (00_scope.md): what a wait loads into TMR, which steps are refused, what
resets and other steps do to the configuration, and that `COLUMNS` is read by none of them. -/

/-! ### The timer load (R104, R241) -/

namespace Sys2Proof.Machine

/-- The load is the least number of clock periods, at least one, that lasts the wait. -/
theorem timerLoad_le_iff {us tClkNs k : Nat} (hT : 1 ≤ tClkNs) :
    timerLoad us tClkNs ≤ k ↔ 1 ≤ k ∧ us * 1000 ≤ k * tClkNs := by
  rw [timerLoad, ← Nat.ceilDiv_eq_add_pred_div, max_le_iff, ceilDiv_le_iff_le_mul hT, mul_comm k]

/-- Settles O32: the load is the least number of periods that lasts the wait, so one less does not. -/
theorem timerLoadCoversTheWait : Obligations.TimerLoadCoversTheWait := by
  intro us tClkNs hT
  obtain ⟨hpos, hlasts⟩ := (timerLoad_le_iff hT).mp (le_refl (timerLoad us tClkNs))
  refine ⟨hpos, hlasts, fun hmore => ?_⟩
  by_contra hshort
  have hle : timerLoad us tClkNs ≤ timerLoad us tClkNs - 1 :=
    (timerLoad_le_iff hT).mpr ⟨by omega, by omega⟩
  omega

/-! ### Reset (R220) -/

/-- A reset that samples a legal configuration is seen in the state with its move off the schedule. -/
theorem step_of_reset {s : State} {c : Cfg} {rest : List Move} (h : s.sched = .reset c :: rest) (hc : c.wf = true) :
    step s = .next ((s.popped rest).applyReset c) := by
  rw [step_of_sched h]
  exact if_pos hc

/-- A reset that samples no configuration of this hardware is refused (R8, U11). -/
theorem step_of_bad_reset {s : State} {c : Cfg} {rest : List Move} (h : s.sched = .reset c :: rest)
    (hc : c.wf = false) : step s = .refused .badConfiguration := by
  rw [step_of_sched h]
  exact if_neg (by simp [hc])

/-- Settles O41: the two answers of a reset, the second written out field by field. -/
theorem resetFromAnyState : Obligations.ResetFromAnyState :=
  fun _ _ _ h => ⟨step_of_bad_reset h, step_of_reset h⟩

/-! ### Refusals (R227, U5, U11) -/

/-- The meaning of an operation always answers a next state. -/
theorem exec_ne_refused (i : Instr) (s : State) (r : Refusal) : exec i s ≠ .refused r := by
  cases i <;> nofun

/-- A grant is never refused: the move is not enabled, or the operation's meaning is run. -/
theorem grantMove_ne_refused (s : State) (p : Nat) (r : Refusal) : s.grantMove p ≠ .refused r := by
  unfold State.grantMove
  split
  · split
    · split
      · exact exec_ne_refused _ _ r
      · nofun
    · nofun
  · nofun

/-- The engine's move ends in a next state or in the fault of a lost position, never in a refusal. -/
theorem engineMove_ne_refused (s : State) (r : Refusal) : s.engineMove ≠ .refused r := by
  unfold State.engineMove State.engineStep
  split
  · split
    · nofun
    · dsimp only
      split
      · nofun
      · split <;> nofun
      · nofun
  · nofun

/-- The only moves that are refused: a withdrawal, and a reset that samples no configuration of this hardware. -/
theorem refused_of_perform {s : State} {m : Move} {r : Refusal} (h : s.perform m = .refused r) :
    (∃ p, m = .withdraw p ∧ r = .requestWithdrawn p) ∨
    (∃ c, m = .reset c ∧ c.wf = false ∧ r = .badConfiguration) := by
  cases m with
  | reset c =>
    simp only [State.perform, State.resetMove] at h
    split at h
    · cases h
    · rename_i hc
      cases h
      exact .inr ⟨c, rfl, by simpa using hc, rfl⟩
  | withdraw p =>
    simp only [State.perform, State.withdrawMove] at h
    split at h <;> cases h <;> exact .inl ⟨p, rfl, rfl⟩
  | engine => exact absurd h (engineMove_ne_refused s r)
  | grant p => exact absurd h (grantMove_ne_refused s p r)
  | post | changeWord | writeText | pinAnswer | lateAnswer | reject | complete | idle => cases h

/-- The block makes no input's move itself, neither a withdrawal nor a reset. -/
theorem ownMoves_not_input {s : State} {m : Move} (h : m ∈ s.ownMoves) :
    (∀ p, m ≠ .withdraw p) ∧ (∀ c, m ≠ .reset c) := by
  rcases ownMoves_kinds h with ⟨rfl, -⟩ | ⟨p, ⟨rfl, -⟩ | ⟨rfl, -⟩ | ⟨rfl, -⟩⟩ <;> exact ⟨nofun, nofun⟩

/-- Settles O50: only an input's move is refused, and the block makes none, so the schedule holds it. -/
theorem refusalsAreInputs : Obligations.RefusalsAreInputs := by
  intro s r h
  obtain ⟨m, n, hstep, hm⟩ := step_is_perform s
  have hcause := refused_of_perform (hstep ▸ h)
  have hinput : m ≠ .idle ∧ m ∉ s.ownMoves := by
    rcases hcause with ⟨p, rfl, -⟩ | ⟨c, rfl, -⟩
    · exact ⟨nofun, fun h => (ownMoves_not_input h).1 p rfl⟩
    · exact ⟨nofun, fun h => (ownMoves_not_input h).2 c rfl⟩
  have hhead : s.sched.head? = some m := by
    rcases hm with hm | ⟨-, ⟨hidle, -⟩ | hown⟩
    · exact hm
    · exact absurd hidle hinput.1
    · exact absurd hown hinput.2
  rcases hcause with ⟨p, rfl, hr⟩ | ⟨c, rfl, hc, hr⟩
  · exact .inl ⟨p, hhead, hr⟩
  · exact .inr ⟨c, hhead, hc, hr⟩

/-! ### The configuration and the parameters (R8, R9, R33) -/

/-- A meaning changes neither the configuration nor a parameter nor a port. -/
theorem exec_parameters {i : Instr} {s t : State} (h : exec i s = .next t) :
    t.cfg = s.cfg ∧ t.tClkNs = s.tClkNs ∧ t.ports = s.ports := by
  cases i <;> cases h <;> exact ⟨rfl, rfl, rfl⟩

@[simp] theorem State.setPend_ports_length (s : State) (p : Nat) (x : Pend) :
    (s.setPend p x).ports.length = s.ports.length := by simp [State.setPend]

@[simp] theorem State.setText_ports_length (s : State) (p : Nat) (i : Half) (b : Byte) :
    (s.setText p i b).ports.length = s.ports.length := by simp [State.setText]

@[simp] theorem State.takeUp_ports_length (s : State) (p : Nat) (w : Word) :
    (s.takeUp p w).ports.length = s.ports.length := by simp [State.takeUp]

@[simp] theorem State.rejectPort_ports_length (s : State) (p : Nat) (w : Word) (status : Status) :
    (s.rejectPort p w status).ports.length = s.ports.length := by simp [State.rejectPort]

@[simp] theorem State.completePort_ports_length (s : State) (p : Nat) (op : Byte) (status : Status)
    (info : BitVec 3) : (s.completePort p op status info).ports.length = s.ports.length := by
  simp [State.completePort]

@[simp] theorem State.endOp_ports_length (s : State) (p : Nat) (status : Status) (info : BitVec 3) :
    (s.endOp p status info).ports.length = s.ports.length := by simp [endOp_ports]

@[simp] theorem State.finish_ports_length (s : State) : s.finish.ports.length = s.ports.length := by
  cases ho : s.cur.owner with
  | port p => rw [finish_of_port ho, State.endOp_ports_length]
  | auto => rw [finish_of_auto ho, State.endBoot_ports]

@[simp] theorem State.abort_ports_length (s : State) (pin : Pin) :
    (s.abort pin).ports.length = s.ports.length := by
  cases ho : s.cur.owner with
  | port p => rw [abort_of_port ho, State.endOp_ports_length, failPin_ports]
  | auto => rw [abort_of_auto ho, State.endBoot_ports, failPin_ports]

/-- No move changes the clock period or the number of ports, and only reset's changes the configuration. -/
theorem effect_parameters {s t : State} {m : Move} (h : Effect s m t) :
    t.tClkNs = s.tClkNs ∧ t.ports.length = s.ports.length ∧ ((∀ c, m ≠ .reset c) → t.cfg = s.cfg) := by
  cases h with
  | reset c hc => exact ⟨rfl, by simp [State.applyReset], fun hm => absurd rfl (hm c)⟩
  | granted p w i t hp hf hd he =>
    obtain ⟨hcfg, hclk, hports⟩ := exec_parameters he
    exact ⟨by simp [hclk], by simp [hports], fun _ => by simp [hcfg]⟩
  | _ => simp

/-- Settles O52: no move but reset's touches a parameter, and reset's makes the configuration the sampled one. -/
theorem configurationIsImmutable : Obligations.ConfigurationIsImmutable := by
  intro s t h
  obtain ⟨m, n, he, hm⟩ := step_effect h
  obtain ⟨hclk, hports, hcfg⟩ := effect_parameters he
  refine ⟨fun hr => hcfg (not_reset_of_step hr hm), fun c hc => ?_, hclk, hports⟩
  obtain ⟨rest, hs⟩ := List.head?_eq_some_iff.mp hc
  cases hwf : c.wf with
  | true => rw [step_of_reset hs hwf] at h; cases h; rfl
  | false => rw [step_of_bad_reset hs hwf] at h; cases h

/-! ### `COLUMNS` (R8, R177): every move commutes with a change of it -/

section
variable (s : State) (c : Byte)

/-! The fields and tests the moves branch on do not see `COLUMNS`. -/

@[simp] theorem State.withColumns_txSub : (s.withColumns c).txSub = s.txSub := rfl
@[simp] theorem State.withColumns_cur : (s.withColumns c).cur = s.cur := rfl
@[simp] theorem State.withColumns_pw : (s.withColumns c).pw = s.pw := rfl
@[simp] theorem State.withColumns_frv : (s.withColumns c).frv = s.frv := rfl
@[simp] theorem State.withColumns_frm : (s.withColumns c).frm = s.frm := rfl
@[simp] theorem State.withColumns_free : (s.withColumns c).free = s.free := rfl
@[simp] theorem State.pend_withColumns (p : Nat) : (s.withColumns c).pend p = s.pend p := rfl
@[simp] theorem State.currentStep_withColumns : (s.withColumns c).currentStep = s.currentStep := rfl
@[simp] theorem State.rejection_withColumns (w : Word) : (s.withColumns c).rejection w = s.rejection w := rfl
@[simp] theorem State.ownMoves_withColumns : (s.withColumns c).ownMoves = s.ownMoves := rfl

/-! The engine's parts. -/

theorem advance_withColumns : (s.withColumns c).advance = s.advance.withColumns c := by
  cases hc : s.currentStep with
  | none => rw [advance_none hc, advance_none (s := s.withColumns c) hc]
  | some st =>
    by_cases h : s.txSub.toNat + 1 < substepCount st
    · rw [advance_within hc h, advance_within (s := s.withColumns c) hc h]; rfl
    · rw [advance_past hc h, advance_past (s := s.withColumns c) hc h]; rfl

theorem waitStep_withColumns (us : Nat) : (s.withColumns c).waitStep us = (s.waitStep us).withColumns c := by
  match h : s.tmr with
  | 0 => rw [waitStep_begins h, waitStep_begins (s := s.withColumns c) h]; rfl
  | 1 =>
    rw [waitStep_ends h, waitStep_ends (s := s.withColumns c) h]
    exact congrArg (State.emit · _) (advance_withColumns (s.setTmr 0) c)
  | n + 2 => rw [waitStep_counts h, waitStep_counts (s := s.withColumns c) h]; rfl

theorem started_withColumns (st : MacroStep) : (s.withColumns c).started st = (s.started st).withColumns c := by
  by_cases h : s.txSub = 0
  · unfold State.started
    rw [if_pos h, if_pos (show (s.withColumns c).txSub = 0 from h)]
    cases st <;> rfl
  · rw [started_of_sub_ne h, started_of_sub_ne (s := s.withColumns c) h]

theorem finish_withColumns : (s.withColumns c).finish = s.finish.withColumns c := by
  cases ho : s.cur.owner with
  | port p => rw [finish_of_port ho, finish_of_port (s := s.withColumns c) ho]; rfl
  | auto => rw [finish_of_auto ho, finish_of_auto (s := s.withColumns c) ho]; rfl

theorem abort_withColumns (pin : Pin) : (s.withColumns c).abort pin = (s.abort pin).withColumns c := by
  cases ho : s.cur.owner with
  | port p => rw [abort_of_port ho, abort_of_port (s := s.withColumns c) ho]; rfl
  | auto => rw [abort_of_auto ho, abort_of_auto (s := s.withColumns c) ho]; rfl

theorem ackWrite_withColumns (pin : Pin) (b : Bool) :
    (s.withColumns c).ackWrite pin b = (s.ackWrite pin b).withColumns c :=
  congrArg (State.emit · _) (advance_withColumns ((s.setPin pin b).setPw none) c)

/-! The moves. -/

theorem pinAnswer_withColumns (ack err : Bool) :
    (s.withColumns c).pinAnswer ack err = (s.pinAnswer ack err).withColumns c := by
  simp only [State.pinAnswer, State.withColumns_pw, abort_withColumns, ackWrite_withColumns]
  split
  · rfl
  · cases err <;> cases ack <;> rfl

theorem engineStep_withColumns : (s.withColumns c).engineStep = mapNext (·.withColumns c) s.engineStep := by
  unfold State.engineStep
  rw [State.currentStep_withColumns]
  cases s.currentStep with
  | none => exact congrArg _ (finish_withColumns s c)
  | some st =>
    have hstart : (if (s.withColumns c).txSub = 0 then (s.withColumns c).startStep st else s.withColumns c) =
        (if s.txSub = 0 then s.startStep st else s).withColumns c := started_withColumns s c st
    simp only [hstart, waitStep_withColumns]
    generalize (if s.txSub = 0 then s.startStep st else s) = t
    simp only [State.withColumns_txSub, State.withColumns_frv, State.withColumns_frm]
    split
    · rfl
    · by_cases ht : s.tmr = 0
      · rw [if_pos ht, if_pos (show (s.withColumns c).tmr = 0 from ht)]; rfl
      · rw [if_neg ht, if_neg (show ¬(s.withColumns c).tmr = 0 from ht)]; rfl
    · rfl

theorem engineMove_withColumns : (s.withColumns c).engineMove = mapNext (·.withColumns c) s.engineMove := by
  simp only [State.engineMove, State.withColumns_cur, State.withColumns_pw, engineStep_withColumns]
  split <;> rfl

/-- A meaning reads ROWS and the font of the configuration at most. -/
theorem exec_withColumns (i : Instr) : exec i (s.withColumns c) = mapNext (·.withColumns c) (exec i s) := by
  cases i <;> rfl

theorem grantMove_withColumns (p : Nat) :
    (s.withColumns c).grantMove p = mapNext (·.withColumns c) (s.grantMove p) := by
  simp only [State.grantMove, State.pend_withColumns]
  split
  · by_cases hf : s.engineFree = true
    · rw [if_pos hf, if_pos (show (s.withColumns c).engineFree = true from hf)]
      split
      · exact exec_withColumns (s.takeUp p _) c _
      · rfl
    · rw [if_neg hf, if_neg (show ¬(s.withColumns c).engineFree = true from hf)]; rfl
  · rfl

theorem rejectMove_withColumns (p : Nat) : (s.withColumns c).rejectMove p = (s.rejectMove p).withColumns c := by
  simp only [State.rejectMove, State.pend_withColumns, State.rejection_withColumns]
  split
  · split <;> rfl
  · rfl

theorem completeMove_withColumns (p : Nat) : (s.withColumns c).completeMove p = (s.completeMove p).withColumns c := by
  simp only [State.completeMove, State.pend_withColumns]
  split <;> rfl

theorem postMove_withColumns (p : Nat) (w : Word) :
    (s.withColumns c).postMove p w = (s.postMove p w).withColumns c := by
  simp only [State.postMove, State.pend_withColumns]
  split <;> rfl

theorem changeMove_withColumns (p : Nat) (w : Word) :
    (s.withColumns c).changeMove p w = (s.changeMove p w).withColumns c := by
  simp only [State.changeMove, State.pend_withColumns]
  split <;> rfl

theorem withdrawMove_withColumns (p : Nat) :
    (s.withColumns c).withdrawMove p = mapNext (·.withColumns c) (s.withdrawMove p) := by
  simp only [State.withdrawMove, State.pend_withColumns]
  split <;> rfl

/-- Every move but reset's, which samples `COLUMNS` anew, commutes with a change of `COLUMNS`. -/
theorem perform_withColumns {m : Move} (hm : ∀ c', m ≠ .reset c') :
    (s.withColumns c).perform m = mapNext (·.withColumns c) (s.perform m) := by
  cases m with
  | reset c' => exact absurd rfl (hm c')
  | post p w => exact congrArg _ (postMove_withColumns s c p w)
  | changeWord p w => exact congrArg _ (changeMove_withColumns s c p w)
  | withdraw p => exact withdrawMove_withColumns s c p
  | pinAnswer ack err => exact congrArg _ (pinAnswer_withColumns s c ack err)
  | engine => exact engineMove_withColumns s c
  | grant p => exact grantMove_withColumns s c p
  | reject p => exact congrArg _ (rejectMove_withColumns s c p)
  | complete p => exact congrArg _ (completeMove_withColumns s c p)
  | writeText | lateAnswer | idle => rfl

/-- Which move the block makes by itself does not depend on `COLUMNS`. -/
theorem ownMove_withColumns : (s.withColumns c).ownMove = (s.ownMove.1, s.ownMove.2.withColumns c) := by
  simp only [State.ownMove, State.ownMoves_withColumns, State.withColumns_free]
  split <;> rfl

end

/-- The block's own choice is one of its enabled moves, or to stay idle. -/
theorem ownMove_mem (s : State) : s.ownMove.1 = .idle ∨ s.ownMove.1 ∈ s.ownMoves := by
  unfold State.ownMove
  match hm : s.ownMoves with
  | [] => exact .inl rfl
  | [m] => exact .inr (List.mem_singleton_self m)
  | m :: m' :: ms =>
    refine .inr ?_
    dsimp only
    cases hget : (m :: m' :: ms)[Config.agentChoice s.free % ((m' :: ms).length + 1)]? with
    | none => exact List.mem_cons_self
    | some x => exact List.mem_of_getElem? hget

/-- With an empty schedule the block moves, in the state with the last outputs gone. -/
theorem step_of_sched_nil {s : State} (h : s.sched = []) :
    step s = s.clearOut.ownMove.2.perform s.clearOut.ownMove.1 := by
  simp [step, State.nextMove, h]

/-- Settles O53: the same move is made in both machines, and each move but reset's commutes with a change of
`COLUMNS`. -/
theorem columnsHaveNoEffect : Obligations.ColumnsHaveNoEffect := by
  intro s c hr
  cases hs : s.sched with
  | cons m rest =>
    have hm : ∀ c', m ≠ .reset c' := fun c' h => hr c' (by rw [hs, h]; rfl)
    rw [step_of_sched hs, step_of_sched (s := s.withColumns c) hs]
    exact perform_withColumns (s.popped rest) c hm
  | nil =>
    have hm : ∀ c', s.clearOut.ownMove.1 ≠ .reset c' := by
      rcases ownMove_mem s.clearOut with h | h
      · rw [h]; nofun
      · exact (ownMoves_not_input h).2
    have hown : (s.withColumns c).clearOut.ownMove = _ := ownMove_withColumns s.clearOut c
    rw [step_of_sched_nil hs, step_of_sched_nil (s := s.withColumns c) hs, hown]
    exact perform_withColumns s.clearOut.ownMove.2 c hm

end Sys2Proof.Machine

/-! The state of the engine (10_state.md): what the operations leave of it, the invariant that every step keeps, and
what the transmitter, the output ports and a receiver make of it. -/

namespace Sys2Proof.Machine

/-! ### What a meaning does to the state (R136, R155, R185) -/

section
variable {i : Instr} {s t : State}

/-- The registers change as the operation's update says. -/
theorem exec_registers (h : exec i s = .next t) : t.dcr = regAfter i .dcr s.dcr ∧ t.dmr = regAfter i .dmr s.dmr := by
  cases i <;> cases h <;> exact ⟨rfl, rfl⟩

/-- A meaning closes the engine, releasing the pins, when it is CLOSE, and otherwise leaves both as they were. -/
theorem exec_phase (h : exec i s = .next t) :
    t.eng = (if i = .close then .closed else s.eng) ∧ t.oe = (if i = .close then false else s.oe) := by
  cases i <;> cases h <;> simp [State.turnOn, State.turnOff]

/-- `CUR` and the lock are the grant's, but for `CUR.start`, which PRINT sets. -/
theorem exec_cur (h : exec i s = .next t) : t.lock = s.lock ∧ t.cur = { s.cur with start := t.cur.start } ∧
    ((∀ len, i ≠ .print len) → t.cur = s.cur) := by
  cases i with
  | print len => cases h; exact ⟨rfl, rfl, fun hno => absurd rfl (hno len)⟩
  | _ => cases h; exact ⟨rfl, rfl, fun _ => rfl⟩

/-- A meaning gives the step list, and no step of the list is taken yet. -/
theorem exec_walk (h : exec i s = .next t) : t.steps = stepListOf s.cfg i ∧ t.seqStep = s.seqStep ∧
    t.txSub = s.txSub ∧ t.tmr = s.tmr ∧ t.frv = s.frv ∧ t.frm = s.frm ∧ t.pins = s.pins ∧ t.pw = s.pw := by
  cases i <;> cases h <;> exact ⟨rfl, rfl, rfl, rfl, rfl, rfl, rfl, rfl⟩

/-- A meaning takes no move off the schedule and no free value. -/
theorem exec_sched (h : exec i s = .next t) : t.sched = s.sched ∧ t.free = s.free := by
  cases i <;> cases h <;> exact ⟨rfl, rfl⟩

/-- Only PRINT sets `CUR.start`, to its start index (R144). -/
theorem exec_print_start {len : Nat} (h : exec (.print len) s = .next t) :
    t.cur.start = BitVec.ofNat 16 (startIndex len) := by
  cases h; rfl

/-- The meaning of an operation never faults. -/
theorem exec_ne_fault (i : Instr) (s : State) (r : Fault) : exec i s ≠ .fault r := by
  cases i <;> nofun

end

/-- Settles O13, from what a meaning does to each part of the state. -/
theorem meaningsFrame : Obligations.MeaningsFrame := by
  intro i s t h
  obtain ⟨hdcr, hdmr⟩ := exec_registers h
  obtain ⟨heng, hoe⟩ := exec_phase h
  obtain ⟨hlock, hcur, hsame⟩ := exec_cur h
  obtain ⟨hsteps, hk, hj, htmr, hfrv, hfrm, hpins, hpw⟩ := exec_walk h
  obtain ⟨hcfg, hclk, hports⟩ := exec_parameters h
  obtain ⟨hsched, hfree⟩ := exec_sched h
  have hphase : i ≠ .close → t.eng = s.eng ∧ t.oe = s.oe := fun hi => by simp [heng, hoe, hi]
  have htext : ∀ p a, Memory.read (t.text p) a = Memory.read (s.text p) a := fun p a => by simp [State.text, hports]
  exact ⟨hdcr, hdmr, hphase, hsame, hcur, hfrv, hfrm, htmr, hk, hj, hlock, hpins, hpw, hcfg, hports, hclk, hsched,
    exec_out h, hfree, htext, hsteps⟩

/-! ### The status outputs (R34) -/

/-- Settles O42: each output is a field or a test of one. -/
theorem statusOutputs : Obligations.StatusOutputs := by
  refine ⟨fun s => ?_, rfl, rfl, rfl, rfl, rfl, rfl, rfl⟩
  have hlock : s.lockQ = true ↔ s.lock ≠ none := Option.isSome_iff_ne_none
  have hclosed : s.closedQ = true ↔ s.eng = .closed := decide_eq_true_iff
  have hcode : (s.engQ = 0 ↔ s.eng = .boot) ∧ (s.engQ = 1 ↔ s.eng = .opened) ∧ (s.engQ = 2 ↔ s.eng = .closed) := by
    unfold State.engQ
    cases s.eng <;> decide
  exact ⟨rfl, hlock, hclosed, hcode.1, hcode.2.1, hcode.2.2, rfl, rfl, rfl⟩

/-! ### The position and the current substep (R26, R106) -/

section
variable {s t : State} {st : MacroStep}

theorem currentSubstep_eq (hc : s.currentStep = some st) :
    s.currentSubstep = (substepsOf st s.frv s.frm)[s.txSub.toNat]? := by
  rw [State.currentSubstep, hc]; rfl

/-- A substep is one of a current `MacroStep`, at a place below its number of substeps. -/
theorem currentStep_of_currentSubstep {x : Substep} (h : s.currentSubstep = some x) :
    ∃ st, s.currentStep = some st ∧ (substepsOf st s.frv s.frm)[s.txSub.toNat]? = some x ∧
      s.txSub.toNat < substepCount st := by
  obtain ⟨st, hc, hx⟩ := Option.bind_eq_some_iff.mp h
  have hlt := (List.getElem?_eq_some_iff.mp hx).1
  rw [substepsOf_length] at hlt
  exact ⟨st, hc, hx, hlt⟩

/-- Only a `Wait` begins with a wait (R101, R102, R104). -/
theorem eq_wait_of_first_substep {us : Nat} {v : Byte} {m : Bool}
    (h : (substepsOf st v m)[0]? = some (.wait us)) : st = .wait us := by
  cases st <;> simp [substepsOf, byteSubsteps, nibSubsteps] at h
  rw [h]

/-- A wait is the same substep before and after the start of its `MacroStep`, which loads nothing for it. -/
theorem started_substep_of_wait {us : Nat} (h : (substepsOf st s.frv s.frm)[s.txSub.toNat]? = some (.wait us)) :
    (substepsOf st (s.started st).frv (s.started st).frm)[s.txSub.toNat]? = some (.wait us) := by
  by_cases hj : s.txSub = 0
  · rw [hj] at h ⊢
    obtain rfl := eq_wait_of_first_substep h
    rfl
  · rw [started_of_sub_ne hj]
    exact h

/-- The advance stays inside the `MacroStep` or, from its last substep, goes to the start of the next one; `SEQ_STEP`
does not wrap in a list that it can count. -/
theorem advance_cases (hlen : s.steps.length < 256) (hc : s.currentStep = some st)
    (hj : s.txSub.toNat < substepCount st) :
    (s.txSub.toNat + 1 < substepCount st ∧ s.advance.seqStep = s.seqStep ∧
      s.advance.txSub.toNat = s.txSub.toNat + 1) ∨
    (s.txSub.toNat + 1 = substepCount st ∧ s.advance.seqStep.toNat = s.seqStep.toNat + 1 ∧ s.advance.txSub = 0) := by
  by_cases h : s.txSub.toNat + 1 < substepCount st
  · have hcount := substepCount_le st
    rw [advance_within hc h]
    exact .inl ⟨h, rfl, BitVec.toNat_add_of_lt (y := 1#4) (show s.txSub.toNat + 1 < 2 ^ 4 by omega)⟩
  · have hk : s.seqStep.toNat < s.steps.length := (List.getElem?_eq_some_iff.mp hc).1
    rw [advance_past hc h]
    exact .inr ⟨by omega, BitVec.toNat_add_of_lt (y := 1#8) (show s.seqStep.toNat + 1 < 2 ^ 8 by omega), rfl⟩

end

/-! ### Single steps of the transmitter (R24, R55, R101, R104) -/

/-- Settles O25: at substep 0 the `MacroStep` starts in the issuing step, and its first substep is a write. -/
theorem firstWriteLoadsTheFrame : Obligations.FirstWriteLoadsTheFrame := by
  intro s st rest hv hw ht hj hst hs
  have hstart : ∀ u : State, u.txSub = 0 → u.started st = u.startStep st := fun u hu => if_pos hu
  have hissue : ∀ pin b, (substepsOf st (s.startStep st).frv (s.startStep st).frm)[0]? = some (.write pin b) →
      step s = .next (((s.popped rest).startStep st).issue pin b) := by
    intro pin b hsub
    rw [← hstart (s.popped rest) hj]
    exact step_of_write hs hv hw ht hst (by rw [hstart s hj, hj]; exact hsub)
  refine ⟨?_, ?_, ?_, ?_⟩
  · rintro n rfl
    exact hissue .e true rfl
  · rintro v m rfl
    exact hissue .rs m rfl
  · rintro r rfl
    rw [hissue .rs false rfl]
    cases r <;> rfl
  · rintro i p rfl hp
    have hbyte : (s.popped rest).ownerByte i = Memory.read (s.text p) i.toNat := by
      rw [State.ownerByte, show (s.popped rest).cur.owner = .port p from hp]; rfl
    rw [hissue .rs true rfl, State.startStep, hbyte]
    rfl

/-- Settles O27: the position stays inside the `MacroStep`. -/
theorem ackAdvancesThePosition : Obligations.AckAdvancesThePosition := by
  intro s pin b st rest hw hst hj hs
  have hadv := advance_within (s := ((s.popped rest).setPin pin b).setPw none) hst hj
  rw [step_of_sched hs]
  simp only [State.perform, State.pinAnswer, hw]
  exact congrArg (fun u => Host.Outcome.next (u.emit (.acked pin b))) hadv

/-- Settles O28: the timer reaches 0, and the position goes where `advance` says. -/
theorem waitEndAdvancesThePosition : Obligations.WaitEndAdvancesThePosition := by
  intro s us st rest hv hw ht hst hsub hs
  rw [currentSubstep_eq hst] at hsub
  have hwait := started_substep_of_wait hsub
  have hstep : step s = .next ((((s.popped rest).setTmr 0).advance).emit (.waitEnded us)) := by
    rw [step_of_wait hs hv hw hst hwait, popped_started_of_wait rest hwait, waitStep_ends (s := s.popped rest) ht]
  constructor
  · intro h
    rw [hstep, advance_within (s := (s.popped rest).setTmr 0) hst h]; rfl
  · intro h
    rw [hstep, advance_past (s := (s.popped rest).setTmr 0) hst (Nat.not_lt.mpr h)]; rfl

/-! ### The registers (R21 to R23) -/

/-- No update touches the constant and identifier bits of the register it writes. -/
theorem regAfter_keeps_identifier (i : Instr) (v : Byte) :
    (regAfter i .dcr v).extractLsb' 3 5 = v.extractLsb' 3 5 ∧
      (regAfter i .dmr v).extractLsb' 2 6 = v.extractLsb' 2 6 := by
  cases i <;> simp [regAfter, BitVec.extractLsb'_or, BitVec.extractLsb'_and]
  all_goals exact BitVec.and_allOnes

/-- Which operations write which register (R155). -/
theorem writer_of_regAfter_ne (i : Instr) (v : Byte) :
    (regAfter i .dcr v ≠ v → i ∈ [Instr.display, .noDisplay, .cursor, .noCursor, .blink, .noBlink]) ∧
    (regAfter i .dmr v ≠ v → i ∈ [Instr.leftToRight, .rightToLeft, .autoscroll, .noAutoscroll]) := by
  cases i <;> simp [regAfter]

section
variable {s t : State} {m : Move}

/-- A move that is no reset writes the registers only when it grants an operation, and then as that one says. -/
theorem effect_registers (he : Effect s m t) (hm : ∀ c, m ≠ .reset c) :
    (t.dcr = s.dcr ∧ t.dmr = s.dmr) ∨
    ∃ p w i, m = .grant p ∧ s.pend p = some (.posted w) ∧ decode w = .request i ∧
      exec i (s.takeUp p w) = .next t ∧ t.dcr = regAfter i .dcr s.dcr ∧ t.dmr = regAfter i .dmr s.dmr := by
  cases he with
  | reset c hc => exact absurd rfl (hm c)
  | granted p w i t hp hf hd hx =>
    obtain ⟨hdcr, hdmr⟩ := exec_registers hx
    exact .inr ⟨p, w, i, rfl, hp, hd, hx, hdcr, hdmr⟩
  | _ => simp

theorem effect_keeps_regs (h : s.RegsLegal) (he : Effect s m t) : t.RegsLegal := by
  cases he with
  | reset c hc =>
    exact ⟨show (0x0C : Byte).extractLsb' 3 5 = 1 by decide, show (0x06 : Byte).extractLsb' 2 6 = 1 by decide⟩
  | granted p w i t hp hf hd hx =>
    obtain ⟨hdcr, hdmr⟩ := exec_registers hx
    refine ⟨?_, ?_⟩
    · rw [hdcr, (regAfter_keeps_identifier i _).1]; exact h.1
    · rw [hdmr, (regAfter_keeps_identifier i _).2]; exact h.2
  | _ => simpa [State.RegsLegal] using h

end

/-- Settles O46: a step is one move, and every move keeps the bits. -/
theorem identifierBitsKept : Obligations.IdentifierBitsKept := by
  intro s t h hst
  obtain ⟨m, n, he, -⟩ := step_effect hst
  exact effect_keeps_regs (s := s.advanceSched n) h he

/-- Settles O51: of the moves that are no reset, only a grant writes a register. -/
theorem registersChangeOnlyAtGrants : Obligations.RegistersChangeOnlyAtGrants := by
  intro s t hr hst hne
  obtain ⟨m, n, he, hm⟩ := step_effect hst
  rcases effect_registers he (not_reset_of_step hr hm) with ⟨hdcr, hdmr⟩ | ⟨p, w, i, -, hp, hd, hx, hdcr, hdmr⟩
  · exact absurd hne (by simp [hdcr, hdmr, State.advanceSched])
  · obtain ⟨-, -, -, -, -, -, -, -, -, -, hlock, -⟩ := meaningsFrame i _ t hx
    have hout : Event.granted p ∈ t.out := by rw [exec_out hx]; simp [State.takeUp]
    refine ⟨p, w, i, hp, hd, hout, (exec_cur hx).1, hdcr, hdmr, fun h => ?_, fun h => ?_⟩
    · exact (writer_of_regAfter_ne i s.dcr).1 (hdcr ▸ h)
    · exact (writer_of_regAfter_ne i s.dmr).2 (hdmr ▸ h)

/-! ### The lock (R28, R29, R31, R123) -/

section
variable {s t : State} {m : Move}

/-- Lock agreement looks at the lock, at the operation's validity and owner, at the granted ports and at BOOT alone. -/
theorem State.LockConsistent.congr (h : s.LockConsistent) (hl : t.lock = s.lock) (hv : t.cur.valid = s.cur.valid)
    (ho : t.cur.owner = s.cur.owner) (hp : ∀ p, t.pend p = some .granted ↔ s.pend p = some .granted)
    (hb : t.eng = .boot ↔ s.eng = .boot) : t.LockConsistent := by
  refine ⟨fun p => ?_, fun p => ?_, ?_⟩
  · rw [hl, hv, ho]; exact h.lock_owner p
  · rw [hp, hl]; exact h.granted_lock p
  · rw [hb, hv, ho]; exact h.boot_auto

/-- A change of the request state of a port that is not granted, to one that is not GRANTED, keeps the agreement. -/
theorem State.LockConsistent.setPend (h : s.LockConsistent) {p : Nat} {x y : Pend} (hp : s.pend p = some x)
    (hx : x ≠ .granted) (hy : y ≠ .granted) : (s.setPend p y).LockConsistent := by
  refine h.congr rfl rfl rfl (fun q => ?_) Iff.rfl
  rw [State.pend_setPend]
  split
  · subst q; simp [hp, hx, hy]
  · rfl

/-- Without an operation, without a lock and without a granted port there is agreement, outside BOOT. -/
theorem lockConsistent_of_none (hl : t.lock = none) (hv : t.cur.valid = false)
    (hp : ∀ p, t.pend p ≠ some .granted) (hb : t.eng ≠ .boot) : t.LockConsistent :=
  ⟨fun p => by simp [hl, hv], fun p => by simp [hl, hp], by simp [hv, hb]⟩

/-- `End` releases the lock and leaves its port FINISHING (R138). -/
theorem State.LockConsistent.endOp (h : s.LockConsistent) {p : Nat} (ho : s.cur.owner = .port p) (status : Status)
    (info : BitVec 3) : (s.endOp p status info).LockConsistent := by
  refine lockConsistent_of_none rfl rfl (fun q => ?_) ?_
  · rw [State.pend_endOp]
    split
    · cases s.pend p <;> simp
    · rename_i hq
      rw [Ne, h.granted_lock, h.lock_owner, ho]
      simpa using fun _ => Ne.symm hq
  · rw [State.endOp_eng, Ne, h.boot_auto, ho]
    simp

/-- The automatic initialization holds no lock when it ends (R123). -/
theorem State.LockConsistent.endBoot (h : s.LockConsistent) (ho : s.cur.owner = .auto) (e : Event) :
    (s.endBoot e).LockConsistent := by
  have hfree : ∀ p, s.lock ≠ some p := fun p hp => by simpa [ho] using (h.lock_owner p).mp hp
  refine lockConsistent_of_none ?_ rfl (fun p => ?_) ?_
  · exact Option.eq_none_iff_forall_ne_some.mpr hfree
  · rw [State.pend_endBoot, Ne, h.granted_lock]; exact hfree p
  · rw [endBoot_eng]; simp

theorem State.LockConsistent.finish (h : s.LockConsistent) : s.finish.LockConsistent := by
  cases ho : s.cur.owner with
  | port p => rw [finish_of_port ho]; exact h.endOp ho _ _
  | auto => rw [finish_of_auto ho]; exact h.endBoot ho _

theorem State.LockConsistent.abort (h : s.LockConsistent) (pin : Pin) : (s.abort pin).LockConsistent := by
  have hfail : (s.failPin pin).LockConsistent := h.congr rfl rfl rfl (fun _ => Iff.rfl) Iff.rfl
  cases ho : s.cur.owner with
  | port p => rw [abort_of_port ho]; exact hfail.endOp ho _ _
  | auto => rw [abort_of_auto ho]; exact hfail.endBoot ho _

theorem engineFree_iff : s.engineFree = true ↔ s.eng = .opened ∧ s.cur.valid = false ∧ s.lock = none := by
  simp [State.engineFree, and_assoc]

/-- A grant takes the free lock for its port, and no meaning goes to BOOT (R136). -/
theorem State.LockConsistent.grant (h : s.LockConsistent) {p : Nat} {w : Word} {i : Instr} {x : Pend}
    (hp : s.pend p = some x) (hf : s.engineFree = true) (hx : exec i (s.takeUp p w) = .next t) :
    t.LockConsistent := by
  obtain ⟨heng, -, hlock⟩ := engineFree_iff.mp hf
  obtain ⟨hl, hcur, -⟩ := exec_cur hx
  have hpend : ∀ q, t.pend q = (s.takeUp p w).pend q := fun q => by rw [State.pend, (exec_parameters hx).2.2]; rfl
  have hval : t.cur.valid = true ∧ t.cur.owner = .port p := by rw [hcur]; exact ⟨rfl, rfl⟩
  have hl' : t.lock = some p := hl
  refine ⟨fun q => ?_, fun q => ?_, ?_⟩
  · simp [hl', hval]
  · rw [hpend, State.pend_takeUp, hl']
    split
    · subst q; simp [hp]
    · rename_i hq
      simp [h.granted_lock, hlock, Ne.symm hq]
  · rw [(exec_phase hx).1, State.takeUp_eng, heng, hval.2]
    split <;> simp

/-- After reset no port is granted, and the automatic initialization runs exactly when it is not suppressed (R220). -/
theorem lockConsistent_applyReset (s : State) (c : Cfg) : (s.applyReset c).LockConsistent := by
  refine ⟨fun p => by simp [State.applyReset], fun p => ?_, ?_⟩
  · cases h : s.ports[p]? <;> simp [State.applyReset, State.pend, h]
  · cases h : c.suppressAutoInit <;> simp [State.applyReset, h]

theorem effect_keeps_lock (h : s.LockConsistent) (he : Effect s m t) : t.LockConsistent := by
  cases he with
  | still => exact h
  | reset c hc => exact lockConsistent_applyReset s c
  | word m p w x hm hp hx =>
    exact h.setPend hp (by rcases hx with rfl | ⟨v, rfl⟩ <;> nofun) nofun
  | text p i b => exact h.congr rfl rfl rfl (fun q => by rw [State.pend_setText]) Iff.rfl
  | failed pin b ack hw => exact h.abort pin
  | finished hv hw hc => exact h.finish
  | acked | issued | waited => exact h.congr (by simp) (by simp) (by simp) (fun q => by simp) (by simp)
  | granted p w i t hp hf hd hx => exact h.grant hp hf hx
  | rejected p w status hp hr =>
    exact (h.setPend hp (y := .finishing (opField w) status 0) nofun nofun).congr rfl rfl rfl (fun _ => Iff.rfl) Iff.rfl
  | completed p op status info hp =>
    exact (h.setPend hp (y := .idle) nofun nofun).congr rfl rfl rfl (fun _ => Iff.rfl) Iff.rfl

end

/-- Settles O47: every move keeps the agreement, and the granted port is the one that holds the lock. -/
theorem lockAgreementKept : Obligations.LockAgreementKept := by
  intro s t h hst
  obtain ⟨m, n, he, -⟩ := step_effect hst
  have h0 : (s.advanceSched n).LockConsistent := h.congr rfl rfl rfl (fun _ => Iff.rfl) Iff.rfl
  have ht := effect_keeps_lock h0 he
  refine ⟨ht, fun p q hp hq => ?_⟩
  rw [ht.granted_lock] at hp hq
  exact Option.some_inj.mp (hp ▸ hq)

/-! ### The invariant, apart from the walk (R8, R9, R30, R50) -/

section
variable {s t : State} {m : Move} {st : MacroStep}

/-- A port that does not exist has the empty text, so the buffers can be taken by their index. -/
theorem textsWf_iff : s.TextsWf ↔ ∀ p, Memory.wf (s.text p) = true := by
  constructor
  · intro h p
    cases hp : s.ports[p]? with
    | none => simp [State.text, hp, Memory.wf_nil]
    | some q => simpa [State.text, hp] using h q (List.mem_of_getElem? hp)
  · intro h q hq
    obtain ⟨p, hp⟩ := List.mem_iff_getElem?.mp hq
    simpa [State.text, hp] using h p

theorem setText_of_no_port {p : Nat} {i : Half} {b : Byte} (h : s.ports.length ≤ p) : s.setText p i b = s := by
  simp [State.setText, List.modify_eq_self h]

theorem text_applyReset (c : Cfg) (p : Nat) : (s.applyReset c).text p = s.text p := by
  cases h : s.ports[p]? <;> simp [State.text, State.applyReset, h]

theorem effect_keeps_texts (h : s.TextsWf) (he : Effect s m t) : t.TextsWf := by
  rw [textsWf_iff] at h ⊢
  intro q
  cases he with
  | reset c hc => rw [text_applyReset]; exact h q
  | text p i b =>
    by_cases hp : p < s.ports.length
    · rw [State.text_setText s p q i b hp]
      split
      · exact Memory.wf_write b i.isLt (h p)
      · exact h q
    · rw [setText_of_no_port (Nat.not_lt.mp hp)]; exact h q
  | granted p w i t hp hf hd hx =>
    have htext : t.text q = (s.takeUp p w).text q := by rw [State.text, (exec_parameters hx).2.2]; rfl
    rw [htext, State.text_takeUp]; exact h q
  | _ => simpa using h q

theorem effect_keeps_params (h : s.ParamsLegal) (he : Effect s m t) : t.ParamsLegal := by
  obtain ⟨hcfg, hclk, hports⟩ := h
  obtain ⟨hclk', hlen, hcfg'⟩ := effect_parameters he
  refine ⟨?_, hclk'.symm ▸ hclk, ?_⟩
  · cases he with
    | reset c hc => exact hc
    | word m p w x hm => rw [hcfg' (by rintro c rfl; simp at hm)]; exact hcfg
    | still => exact hcfg
    | _ => rw [hcfg' nofun]; exact hcfg
  · rw [← List.length_pos_iff, hlen, List.length_pos_iff]
    exact hports

/-- An end leaves OE as it was, and the phase too or, from BOOT, at OPEN. -/
theorem pinsOwned_of_end (h : s.PinsOwned) (hoe : t.oe = s.oe)
    (heng : t.eng = s.eng ∨ (s.eng = .boot ∧ t.eng = .opened)) : t.PinsOwned := by
  unfold State.PinsOwned at *
  rcases heng with heng | ⟨hboot, hopen⟩
  · rw [hoe, heng]; exact h
  · rw [hoe, h, hboot, hopen]; simp

/-- The end of a running operation changes the phase at the end of the automatic initialization only (R123). -/
theorem finish_eng (h : s.LockConsistent) (hv : s.cur.valid = true) :
    s.finish.eng = s.eng ∨ (s.eng = .boot ∧ s.finish.eng = .opened) := by
  cases ho : s.cur.owner with
  | port p => rw [finish_of_port ho, State.endOp_eng]; exact .inl rfl
  | auto => rw [finish_of_auto ho, endBoot_eng]; exact .inr ⟨h.boot_auto.mpr ⟨hv, ho⟩, rfl⟩

/-- So does the abort of a running operation (R196, R209). -/
theorem abort_eng (h : s.LockConsistent) (hv : s.cur.valid = true) (pin : Pin) :
    (s.abort pin).eng = s.eng ∨ (s.eng = .boot ∧ (s.abort pin).eng = .opened) := by
  cases ho : s.cur.owner with
  | port p => rw [abort_of_port ho, State.endOp_eng, failPin_eng]; exact .inl rfl
  | auto => rw [abort_of_auto ho, endBoot_eng]; exact .inr ⟨h.boot_auto.mpr ⟨hv, ho⟩, rfl⟩

theorem effect_keeps_pins (h : s.Inv) (he : Effect s m t) : t.PinsOwned := by
  have hpins := h.pins
  cases he with
  | reset c hc => cases hs : c.suppressAutoInit <;> simp [State.PinsOwned, State.applyReset, hs]
  | failed pin b ack hw =>
    exact pinsOwned_of_end hpins (State.abort_oe s pin) (abort_eng h.lock (h.write pin b hw).1 pin)
  | finished hv hw hc => exact pinsOwned_of_end hpins (State.finish_oe s) (finish_eng h.lock hv)
  | granted p w i t hp hf hd hx =>
    obtain ⟨heng, hoe⟩ := exec_phase hx
    unfold State.PinsOwned at *
    rw [heng, hoe]
    split
    · simp
    · exact hpins
  | _ => simpa [State.PinsOwned] using hpins

/-! ### The invariant of the walk (R24 to R27, R35, R103, R106) -/

/-- The part of the invariant that speaks of the running operation, its position, its write and its wait. -/
structure State.WalkInv (s : State) : Prop where
  cur : s.CurNamesSteps
  position : s.PositionLegal
  frame : s.FrameLoaded
  write : s.WriteOfPosition
  timer : s.TimerOfPosition
  idle : s.IdleClean

theorem State.Inv.walk (h : s.Inv) : s.WalkInv := ⟨h.cur, h.position, h.frame, h.write, h.timer, h.idle⟩

/-- The walk does not depend on the ports, the schedule, the outputs and the count of free values. -/
theorem State.WalkInv.withPorts (h : s.WalkInv) {ps : List Port} {l : List Move} {o : List Event} {n : Nat} :
    ({ s with ports := ps, sched := l, out := o, free := n } : State).WalkInv :=
  ⟨h.cur, h.position, h.frame, h.write, h.timer, h.idle⟩

/-- The invariant does not depend on the schedule, the outputs and the count of free values. -/
theorem State.Inv.withSched (h : s.Inv) {l : List Move} {o : List Event} {n : Nat} :
    ({ s with sched := l, out := o, free := n } : State).Inv :=
  ⟨h.regs, h.texts, h.params, ⟨h.lock.lock_owner, h.lock.granted_lock, h.lock.boot_auto⟩, h.pins, h.cur, h.position,
    h.frame, h.write, h.timer, h.idle⟩

/-- With no operation and nothing in progress there is no walk to speak of. -/
theorem walkInv_of_idle (hv : t.cur.valid = false) (hw : t.pw = none) (ht : t.tmr = 0) (hk : t.seqStep = 0)
    (hj : t.txSub = 0) (hl : t.steps = []) : t.WalkInv where
  cur := by intro h; simp [hv] at h
  position := by intro h; simp [hv] at h
  frame := by intro h; simp [hv] at h
  write := by intro pin b h; simp [hw] at h
  timer := fun h => absurd ht h
  idle := fun _ => ⟨hw, ht, hk, hj, hl⟩

/-- At the start of a step list, with nothing in progress, the walk is as `CUR` says. -/
theorem walkInv_of_start (hcur : t.CurNamesSteps) (hv : t.cur.valid = true) (hw : t.pw = none) (ht : t.tmr = 0)
    (hk : t.seqStep = 0) (hj : t.txSub = 0) : t.WalkInv where
  cur := hcur
  position := by
    intro _
    unfold State.currentStep
    rw [hk]
    cases hl : t.steps with
    | nil => simp [hj]
    | cons st l =>
      show t.txSub.toNat < substepCount st
      rw [hj]
      exact substepCount_pos st
  frame := by
    intro _ st _ h
    simp [hj, hw] at h
  write := by intro pin b h; simp [hw] at h
  timer := fun h => absurd ht h
  idle := by intro h; simp [hv] at h

/-- The step list of the running operation fits `SEQ_STEP` (R26, R145). -/
theorem State.CurNamesSteps.length_lt (h : s.CurNamesSteps) (hv : s.cur.valid = true) : s.steps.length < 256 := by
  obtain ⟨i, -, hsteps, -⟩ := h hv
  rw [hsteps]
  exact (stepListOf_length s.cfg i).trans_lt (by decide)

theorem State.PositionLegal.lt (h : s.PositionLegal) (hv : s.cur.valid = true) (hc : s.currentStep = some st) :
    s.txSub.toNat < substepCount st := by
  have := h hv
  rwa [hc] at this

theorem Kept.advance (s : State) : Kept s s.advance :=
  ⟨by simp, by simp, by simp, by simp, by simp, by simp, by simp, by simp, by simp, by simp⟩

theorem Kept.curNamesSteps (hk : Kept s t) (h : s.CurNamesSteps) : t.CurNamesSteps := by
  unfold State.CurNamesSteps at *
  rw [hk.cur, hk.steps, hk.cfg, hk.eng]
  exact h

/-- After a substep, with nothing in flight and no wait, the position is legal again, and inside the `MacroStep` the
frame registers hold what they held. -/
theorem State.WalkInv.advance (h : s.WalkInv) (hv : s.cur.valid = true) (hw : s.pw = none) (ht : s.tmr = 0)
    (hc : s.currentStep = some st) (hfr : s.frameHolds st) : s.advance.WalkInv := by
  have hlen := h.cur.length_lt hv
  have hk : s.seqStep.toNat < s.steps.length := (List.getElem?_eq_some_iff.mp hc).1
  have hadv := advance_cases hlen hc (h.position.lt hv hc)
  refine ⟨?_, fun _ => ?_, fun _ st' hc' hstart => ?_, ?_, ?_, ?_⟩
  · exact (Kept.advance s).curNamesSteps h.cur
  · rcases hadv with ⟨hlt, hstep, hsub⟩ | ⟨-, hstep, hsub⟩
    · rw [currentStep_congr (s := s) (by simp) hstep, hc]
      exact hsub ▸ hlt
    · cases hnext : s.advance.currentStep with
      | none =>
        have hle : s.steps.length ≤ s.seqStep.toNat + 1 := by
          simpa [State.currentStep, hstep] using hnext
        exact ⟨by rw [hstep, State.advance_steps]; omega, hsub⟩
      | some st' =>
        show s.advance.txSub.toNat < substepCount st'
        rw [hsub]
        exact substepCount_pos st'
  · rcases hadv with ⟨-, hstep, -⟩ | ⟨-, -, hsub⟩
    · rw [currentStep_congr (s := s) (by simp) hstep, hc] at hc'
      cases hc'
      cases st with
      | wait us => trivial
      | reg r => cases r <;> simpa [State.frameHolds, State.reg] using hfr
      | _ => simpa [State.frameHolds] using hfr
    · simp [hsub, hw] at hstart
  · intro pin b hpw; simp [hw] at hpw
  · intro hne; simp [ht] at hne
  · intro hval; simp [hv] at hval

/-- A `MacroStep` that has started holds its value in the frame registers (R24). -/
theorem started_frameHolds (h : s.txSub ≠ 0 → s.frameHolds st) : (s.started st).frameHolds st := by
  by_cases hj : s.txSub = 0
  · rw [State.started, if_pos hj]
    cases st with
    | nib n => exact lowNibble_append _ n
    | wait | char => trivial
    | byte v m => exact ⟨rfl, rfl⟩
    | reg r => cases r <;> exact ⟨rfl, rfl⟩
  · rw [started_of_sub_ne hj]
    exact h hj

/-- At a wait the frame registers hold what its `MacroStep` loaded, if anything. -/
theorem frameHolds_of_wait (h : s.FrameLoaded) (hv : s.cur.valid = true) (hc : s.currentStep = some st) {us : Nat}
    (hs : (substepsOf st s.frv s.frm)[s.txSub.toNat]? = some (.wait us)) : s.frameHolds st := by
  by_cases hj : s.txSub = 0
  · rw [hj] at hs
    rw [eq_wait_of_first_substep hs]
    trivial
  · exact h hv st hc (.inl hj)

end

/-! ### Every move keeps the walk, and so the invariant -/

section
variable {s t : State} {m : Move} {st : MacroStep}

theorem Kept.issue (s : State) (st : MacroStep) (pin : Pin) (b : Bool) : Kept s ((s.started st).issue pin b) :=
  ⟨by simp, by simp, by simp, by simp, by simp, by simp, by simp, by simp, by simp, by simp⟩

theorem Kept.setTmr (s : State) (n : Nat) : Kept s (s.setTmr n) := ⟨rfl, rfl, rfl, rfl, rfl, rfl, rfl, rfl, rfl, rfl⟩

/-- The end of a write, before the position advances (R55). -/
theorem Kept.endWrite (s : State) (pin : Pin) (b : Bool) : Kept s ((s.setPin pin b).setPw none) :=
  ⟨rfl, rfl, rfl, rfl, rfl, rfl, rfl, rfl, rfl, rfl⟩

theorem Kept.waitStep (s : State) (us : Nat) : Kept s (s.waitStep us) :=
  ⟨by simp, by simp, by simp, by simp, by simp, by simp, by simp, by simp, by simp, by simp⟩

/-- What is left to show when the engine has moved and the position has not. -/
theorem State.WalkInv.atPosition (h : s.WalkInv) (hv : s.cur.valid = true) (hkept : Kept s t)
    (hk : t.seqStep = s.seqStep) (hj : t.txSub = s.txSub) (hc : s.currentStep = some st) (hfr : t.frameHolds st)
    (hwrite : t.WriteOfPosition) (htimer : t.TimerOfPosition) : t.WalkInv where
  cur := hkept.curNamesSteps h.cur
  position := by
    intro _
    rw [currentStep_congr hkept.steps hk, hc, hj]
    exact h.position.lt hv hc
  frame := by
    intro _ st' hc' _
    rw [currentStep_congr hkept.steps hk, hc] at hc'
    cases hc'
    exact hfr
  write := hwrite
  timer := htimer
  idle := by intro hval; simp [hkept.cur, hv] at hval

/-- The issued write is the one the position points at (R103). -/
theorem State.WalkInv.issue (h : s.WalkInv) {pin : Pin} {b : Bool} (hv : s.cur.valid = true) (ht : s.tmr = 0)
    (hc : s.currentStep = some st)
    (hs : (substepsOf st (s.started st).frv (s.started st).frm)[s.txSub.toNat]? = some (.write pin b)) :
    ((s.started st).issue pin b).WalkInv := by
  have hc' : ((s.started st).issue pin b).currentStep = some st := by
    rw [currentStep_congr (s := s) (by simp) (by simp), hc]
  refine h.atPosition hv (Kept.issue s st pin b) (by simp) (by simp) hc ?_ ?_ ?_
  · exact started_frameHolds fun hj => h.frame hv st hc (.inl hj)
  · rintro pin' b' hpw
    cases hpw
    refine ⟨by simpa using hv, by simpa using ht, ?_⟩
    rw [currentSubstep_eq hc']
    simpa using hs
  · intro hne
    simp [ht] at hne

/-- The timer runs during the wait the position points at, and when it has run out the position advances (R104). -/
theorem State.WalkInv.waitStep (h : s.WalkInv) {us : Nat} (hv : s.cur.valid = true) (hw : s.pw = none)
    (hc : s.currentStep = some st) (hs : (substepsOf st s.frv s.frm)[s.txSub.toNat]? = some (.wait us)) :
    (s.waitStep us).WalkInv := by
  have hfr := frameHolds_of_wait h.frame hv hc hs
  have hsub : s.currentSubstep = some (.wait us) := by rw [currentSubstep_eq hc]; exact hs
  have hnone : (s.waitStep us).WriteOfPosition := by intro pin b hpw; simp [hw] at hpw
  have hkept := Kept.waitStep s us
  match hn : s.tmr with
  | 0 =>
    rw [waitStep_begins hn] at hkept hnone ⊢
    exact h.atPosition hv hkept rfl rfl hc hfr hnone fun _ => ⟨hv, us, hsub, le_refl _⟩
  | 1 =>
    rw [waitStep_ends hn]
    have h0 : (s.setTmr 0).WalkInv := h.atPosition hv (Kept.setTmr s 0) rfl rfl hc hfr
      (by intro pin b hpw; simp [hw] at hpw) fun hne => absurd rfl hne
    exact (h0.advance hv hw rfl hc hfr).withPorts
  | n + 2 =>
    rw [waitStep_counts hn] at hkept hnone ⊢
    refine h.atPosition hv hkept rfl rfl hc hfr hnone fun _ => ⟨hv, us, hsub, ?_⟩
    obtain ⟨-, us', hsub', hle⟩ := h.timer (by rw [hn]; simp)
    cases hsub.symm.trans hsub'
    show n + 1 ≤ timerLoad us s.tClkNs
    omega

/-- An acknowledged write ends, and the position advances (R55). -/
theorem State.WalkInv.ackWrite (h : s.WalkInv) {pin : Pin} {b : Bool} (hw : s.pw = some (pin, b)) :
    (s.ackWrite pin b).WalkInv := by
  obtain ⟨hv, ht, hsub⟩ := h.write pin b hw
  obtain ⟨st, hc, -, -⟩ := currentStep_of_currentSubstep hsub
  have hfr := h.frame hv st hc (.inr (by simp [hw]))
  have h0 : ((s.setPin pin b).setPw none).WalkInv :=
    h.atPosition hv (Kept.endWrite s pin b) rfl rfl hc hfr
      (by intro pin b hpw; simp at hpw) fun hne => absurd ht hne
  exact (h0.advance hv rfl ht hc hfr).withPorts

/-- The grant puts the position at the start of the step list that `CUR` names (R136). -/
theorem State.WalkInv.grant (h : s.WalkInv) {p : Nat} {w : Word} {i : Instr} (hf : s.engineFree = true)
    (hd : decode w = .request i) (hx : exec i (s.takeUp p w) = .next t) : t.WalkInv := by
  obtain ⟨heng, hv, -⟩ := engineFree_iff.mp hf
  obtain ⟨hpw, htmr, -⟩ := h.idle hv
  obtain ⟨-, hcur, -⟩ := exec_cur hx
  obtain ⟨hsteps, hk, hj, htmr', -, -, -, hpw'⟩ := exec_walk hx
  have hcfg := (exec_parameters hx).1
  have hphase := (exec_phase hx).1
  refine walkInv_of_start (fun _ => ⟨i, ?_, ?_, ?_, ?_, ?_⟩) ?_ (hpw'.trans hpw) (htmr'.trans htmr) hk hj
  · rw [hcur]; exact hd
  · rw [hsteps, hcfg]
  · rw [hphase, State.takeUp_eng, heng]
    split <;> simp [*]
  · rw [hcur]; nofun
  · rintro len rfl
    exact exec_print_start hx
  · rw [hcur]; rfl

/-- Reset is at the start of the automatic initialization, or has nothing to walk (R220). -/
theorem walkInv_applyReset (s : State) (c : Cfg) : (s.applyReset c).WalkInv := by
  cases hs : c.suppressAutoInit with
  | true => exact walkInv_of_idle (by simp [State.applyReset, hs]) rfl rfl rfl rfl (by simp [State.applyReset, hs])
  | false =>
    refine walkInv_of_start (fun _ => ⟨.init, rfl, ?_, ?_, fun _ => rfl, nofun⟩) (by simp [State.applyReset, hs]) rfl
      rfl rfl rfl
    · simp [State.applyReset, hs, stepListOf]
    · simp [State.applyReset, hs]

theorem effect_keeps_walk (h : s.WalkInv) (he : Effect s m t) : t.WalkInv := by
  cases he with
  | still => exact h
  | reset c hc => exact walkInv_applyReset s c
  | word | text | rejected | completed => exact h.withPorts
  | failed pin b ack hw => exact walkInv_of_idle (by simp) (by simp) (by simp) (by simp) (by simp) (by simp)
  | acked pin b hw => exact h.ackWrite hw
  | finished hv hw hc => exact walkInv_of_idle (by simp) (by simpa using hw) (by simp) (by simp) (by simp) (by simp)
  | issued st pin b hv hw hc ht hs => exact h.issue hv ht hc hs
  | waited st us hv hw hc hs =>
    have hstart := started_of_wait hs
    rw [hstart] at hs ⊢
    exact h.waitStep hv hw hc hs
  | granted p w i t hp hf hd hx => exact h.grant hf hd hx

theorem effect_keeps_inv (h : s.Inv) (he : Effect s m t) : t.Inv :=
  have hwalk := effect_keeps_walk h.walk he
  { regs := effect_keeps_regs h.regs he
    texts := effect_keeps_texts h.texts he
    params := effect_keeps_params h.params he
    lock := effect_keeps_lock h.lock he
    pins := effect_keeps_pins h he
    cur := hwalk.cur
    position := hwalk.position
    frame := hwalk.frame
    write := hwalk.write
    timer := hwalk.timer
    idle := hwalk.idle }

end

/-- Settles O48: a step is one move, and every move keeps each clause of the invariant. -/
theorem everyStepKeepsInvariant : Obligations.EveryStepKeepsInvariant := by
  intro s t h hst
  obtain ⟨m, n, he, -⟩ := step_effect hst
  exact effect_keeps_inv (s := s.advanceSched n) h.withSched he

/-- Settles O45: the reset state has the walk and the lock of a reset (R38). -/
theorem resetMeetsInvariant : Obligations.ResetMeetsInvariant := by
  have hwalk : State.reset.WalkInv :=
    (walkInv_applyReset State.reset Cfg.default).withPorts (ps := [Port.fresh]) (o := [])
  have hlock : State.reset.LockConsistent :=
    (lockConsistent_applyReset State.reset Cfg.default).congr rfl rfl rfl (fun _ => Iff.rfl) Iff.rfl
  have htexts : State.reset.TextsWf := by
    intro q hq
    rw [List.mem_singleton.mp hq]
    rfl
  have hpins : State.reset.PinsOwned := iff_of_false nofun nofun
  exact ⟨⟨rfl, rfl⟩, htexts, ⟨rfl, by decide, by decide⟩, hlock, hpins, hwalk.cur, hwalk.position, hwalk.frame,
    hwalk.write, hwalk.timer, hwalk.idle⟩

/-! ### No fault (R63, R106) -/

section
variable {s : State} {m : Move}

/-- The engine's move faults at a position without a substep, or at a write while the timer runs. -/
theorem fault_of_engineMove {r : Fault} (h : s.engineMove = .fault r) :
    s.pw = none ∧ s.cur.valid = true ∧ ∃ st, s.currentStep = some st ∧
      ((substepsOf st (s.started st).frv (s.started st).frm)[s.txSub.toNat]? = none ∨
       s.tmr ≠ 0 ∧ ∃ pin b,
        (substepsOf st (s.started st).frv (s.started st).frm)[s.txSub.toNat]? = some (.write pin b)) := by
  unfold State.engineMove at h
  split at h
  · rename_i hrun
    simp only [Bool.and_eq_true, Option.isNone_iff_eq_none] at hrun
    unfold State.engineStep at h
    split at h
    · cases h
    · rename_i st hc
      refine ⟨hrun.2, hrun.1, st, hc, ?_⟩
      dsimp only at h
      split at h
      · rename_i hs
        exact .inl hs
      · rename_i pin b hs
        split at h
        · cases h
        · rename_i ht
          exact .inr ⟨ht, pin, b, hs⟩
      · cases h
  · cases h

theorem grantMove_ne_fault (s : State) (p : Nat) (r : Fault) : s.grantMove p ≠ .fault r := by
  unfold State.grantMove
  split
  · split
    · split
      · exact exec_ne_fault _ _ r
      · nofun
    · nofun
  · nofun

/-- Only the engine's move faults. -/
theorem fault_of_perform {r : Fault} (h : s.perform m = .fault r) : s.engineMove = .fault r := by
  cases m with
  | engine => exact h
  | grant p => exact absurd h (grantMove_ne_fault s p r)
  | reset c =>
    simp only [State.perform, State.resetMove] at h
    split at h <;> cases h
  | withdraw p =>
    simp only [State.perform, State.withdrawMove] at h
    split at h <;> cases h
  | _ => cases h

/-- The invariant names a substep, and while the timer runs that substep is a wait. -/
theorem State.Inv.perform_ne_fault (h : s.Inv) (m : Move) (r : Fault) : s.perform m ≠ .fault r := by
  intro hfault
  obtain ⟨-, hv, st, hc, hsub | ⟨ht, pin, b, hsub⟩⟩ := fault_of_engineMove (fault_of_perform hfault)
  · have hlt := h.position.lt hv hc
    rw [← substepsOf_length st (s.started st).frv (s.started st).frm] at hlt
    simp only [List.getElem?_eq_none_iff] at hsub
    omega
  · obtain ⟨-, us, hwait, -⟩ := h.timer ht
    rw [currentSubstep_eq hc] at hwait
    cases hsub.symm.trans (started_substep_of_wait hwait)

theorem State.Inv.step_ne_fault (h : s.Inv) (r : Fault) : step s ≠ .fault r := by
  obtain ⟨m, n, hstep, -⟩ := step_is_perform s
  rw [hstep]
  exact State.Inv.perform_ne_fault (s := s.advanceSched n) h.withSched m r

/-- A property that every step keeps and under which no step faults keeps every run of a machine from a fault. -/
theorem run_ne_fault_of_invariant {M : Host.Core} {P : M.State → Prop}
    (hkeep : ∀ s t, P s → M.step s = .next t → P t) (hsafe : ∀ s r, P s → M.step s ≠ .fault r) (n : Nat) (s : M.State)
    (r : M.Fault) (h : P s) : M.run n s ≠ .fault r := by
  induction n generalizing s with
  | zero => nofun
  | succ n ih =>
    rw [Host.Core.run]
    split
    · rename_i t hst
      exact ih t (hkeep s t h hst)
    · rename_i r' hst
      exact absurd hst (hsafe s r' h)
    · nofun

end

/-- Settles O49: every step keeps the invariant, and from a state that meets it no step faults. -/
theorem runsNeverFault : Obligations.RunsNeverFault := fun s n r h =>
  run_ne_fault_of_invariant (M := core) (P := State.Inv) everyStepKeepsInvariant
    (fun _ r h => h.step_ne_fault r) n s r h

/-! ### The walk, forward (R26, R58), and the writes that belong to it (R103, R107) -/

section
variable {s t : State} {m : Move} {st : MacroStep}

/-- A wait leaves the position or lets it advance. -/
theorem waitStep_position (s : State) (us : Nat) :
    ((s.waitStep us).seqStep = s.seqStep ∧ (s.waitStep us).txSub = s.txSub) ∨
    ((s.waitStep us).seqStep = s.advance.seqStep ∧ (s.waitStep us).txSub = s.advance.txSub) := by
  match hn : s.tmr with
  | 0 => rw [waitStep_begins hn]; exact .inl ⟨rfl, rfl⟩
  | 1 => rw [waitStep_ends hn]; exact .inr (advance_congr (t := s.setTmr 0) rfl rfl rfl)
  | n + 2 => rw [waitStep_counts hn]; exact .inl ⟨rfl, rfl⟩

/-- A move that is no reset ends the running operation, leaves its position, or lets it advance. -/
theorem effect_position (h : s.WalkInv) (hv : s.cur.valid = true) (he : Effect s m t) (hm : ∀ c, m ≠ .reset c) :
    t.cur.valid = false ∨ (t.seqStep = s.seqStep ∧ t.txSub = s.txSub) ∨
    ∃ st, s.currentStep = some st ∧ t.seqStep = s.advance.seqStep ∧ t.txSub = s.advance.txSub := by
  cases he with
  | reset c hc => exact absurd rfl (hm c)
  | failed | finished => exact .inl (by simp)
  | still | word | text | rejected | completed => exact .inr (.inl ⟨rfl, rfl⟩)
  | issued => exact .inr (.inl ⟨by simp, by simp⟩)
  | acked pin b hw =>
    obtain ⟨st, hc, -⟩ := currentStep_of_currentSubstep (h.write pin b hw).2.2
    exact .inr (.inr ⟨st, hc, advance_congr (t := (s.setPin pin b).setPw none) rfl rfl rfl⟩)
  | waited st us hv hw hc hs =>
    rw [started_of_wait hs]
    exact .inr ((waitStep_position s us).imp_right fun hadv => ⟨st, hc, hadv⟩)
  | granted p w i t hp hf => exact absurd (hv.symm.trans (engineFree_iff.mp hf).2.1) nofun

end

/-- Settles O57: a position that moves is advanced. -/
theorem positionWalksForward : Obligations.PositionWalksForward := by
  intro s t h hv hr hst hv'
  obtain ⟨m, n, he, hm⟩ := step_effect hst
  have hwalk : (s.advanceSched n).WalkInv := h.walk.withPorts
  rcases effect_position hwalk hv he (not_reset_of_step hr hm) with hend | hstay | ⟨st, hc, hk, hj⟩
  · exact absurd (hv'.symm.trans hend) nofun
  · exact .inl hstay
  · rw [hk, hj]
    rcases advance_cases (hwalk.cur.length_lt hv) hc (hwalk.position.lt hv hc) with
      ⟨-, hstep, hsub⟩ | ⟨hlast, hstep, hsub⟩
    · exact .inr (.inl ⟨hstep, hsub⟩)
    · exact .inr (.inr ⟨hstep, hsub, st, hc, hlast⟩)

section
variable {s t : State} {m : Move} {st : MacroStep}

/-- Only the engine's move at a write substep shows an issue (R55, R103). -/
theorem issue_of_event {pin : Pin} {b : Bool} (he : Effect s m t) (ho : s.out = [])
    (hmem : Event.issued pin b ∈ t.out) :
    s.cur.valid = true ∧ s.pw = none ∧ s.tmr = 0 ∧ ∃ st, s.currentStep = some st ∧ t = (s.started st).issue pin b := by
  cases he with
  | issued st pin' b' hv hw hc ht hs =>
    have hout : Event.issued pin b ∈ (s.started st).out ++ [.issued pin' b'] := hmem
    have hstart : Event.issued pin b ∉ (s.started st).out := by
      intro h
      rcases mem_started_out h with h | ⟨i, -, -, h⟩
      · simp [ho] at h
      · cases h
    obtain ⟨rfl, rfl⟩ : pin = pin' ∧ b = b' := by simpa [hstart] using hout
    exact ⟨hv, hw, ht, st, hc, rfl⟩
  | waited st us hv hw hc hs =>
    rcases mem_waitStep_out hmem with h | h | h
    · rw [started_of_wait hs, ho] at h; cases h
    · cases h
    · cases h
  | failed pin' =>
    cases hq : s.cur.owner with
    | port p => simp [abort_of_port hq, endOp_out, failPin_out, ho] at hmem
    | auto => simp [abort_of_auto hq, endBoot_out, failPin_out, ho] at hmem
  | finished =>
    cases hq : s.cur.owner with
    | port p => simp [finish_of_port hq, endOp_out, ho] at hmem
    | auto => simp [finish_of_auto hq, endBoot_out, ho] at hmem
  | granted p w i t hp hf hd hx => simp [exec_out hx, State.takeUp, ho] at hmem
  | reset | acked | rejected | completed =>
    simp [State.applyReset, State.ackWrite, State.rejectPort, State.completePort, ho] at hmem
  | still | word | text => simp [ho] at hmem

/-- A closed engine has no step to walk (R185). -/
theorem State.Inv.open_of_currentStep (h : s.Inv) (hv : s.cur.valid = true) (hc : s.currentStep = some st) :
    s.eng ≠ .closed := by
  intro hclosed
  obtain ⟨i, -, hsteps, hclose, -⟩ := h.cur hv
  obtain rfl := hclose.mp hclosed
  rw [State.currentStep, hsteps] at hc
  simp [stepListOf] at hc

end

/-- Settles O58: the issue is the engine's, at its position, and the next state meets the invariant of the write. -/
theorem writesBelongToTheOperation : Obligations.WritesBelongToTheOperation := by
  intro s t pin b h hst hmem
  obtain ⟨m, n, he, -⟩ := step_effect hst
  obtain ⟨hv, hw, ht, st, hc, rfl⟩ := issue_of_event he rfl hmem
  have hopen := State.Inv.open_of_currentStep (s := s.advanceSched n) h.withSched hv hc
  have hoe : s.oe = true := by
    rw [← Bool.not_eq_false]
    exact mt h.pins.mp hopen
  have hwrite := (everyStepKeepsInvariant s _ h hst).write pin b rfl
  exact ⟨hv, hw, ht, hoe, rfl, by simp [State.advanceSched], by simp [State.advanceSched], hwrite.2.2⟩

/-! ### The write in flight (R35, R57, R199, R224) -/

section
variable {s t : State} {m : Move}

/-- While a write of a running operation is in flight, a move that is neither reset nor a signal of the Pin Set reaches
the ports and the outputs only. -/
theorem effect_of_inFlight {w : Pin × Bool} (hw : s.pw = some w) (hv : s.cur.valid = true) (he : Effect s m t)
    (hreset : ∀ c, m ≠ .reset c) (hanswer : ∀ ack err, m = .pinAnswer ack err → ack = false ∧ err = false) :
    t = { s with ports := t.ports, out := t.out } := by
  cases he with
  | still | word | text | rejected | completed => rfl
  | reset c hc => exact absurd rfl (hreset c)
  | failed => exact absurd (hanswer _ _ rfl).2 nofun
  | acked => exact absurd (hanswer _ _ rfl).1 nofun
  | finished _ hw' | issued _ _ _ _ hw' | waited _ _ _ hw' => cases hw.symm.trans hw'
  | granted p w i t hp hf => exact absurd (hv.symm.trans (engineFree_iff.mp hf).2.1) nofun

end

/-- Settles O31: the step is not refused and does not fault, and its move is one that does not reach the engine. -/
theorem unansweredWriteHoldsTheEngine : Obligations.UnansweredWriteHoldsTheEngine := by
  refine ⟨?_, ?_, ?_⟩
  · intro s w hw hv hr hanswer hwithdraw
    cases hst : step s with
    | next t =>
      obtain ⟨m, n, he, hm⟩ := step_effect hst
      have hreset := not_reset_of_step hr hm
      have hquiet : ∀ ack err, m = .pinAnswer ack err → ack = false ∧ err = false := by
        rintro ack err rfl
        rcases hm with hm | ⟨-, ⟨hm, -⟩ | hm⟩
        · exact hanswer ack err hm
        · cases hm
        · rcases ownMoves_kinds hm with ⟨h, -⟩ | ⟨p, ⟨h, -⟩ | ⟨h, -⟩ | ⟨h, -⟩⟩ <;> cases h
      rw [effect_of_inFlight (s := s.advanceSched n) hw hv he hreset hquiet]
      exact ⟨_, rfl, rfl, rfl, rfl, rfl, rfl, rfl, rfl, rfl, rfl, rfl, rfl, rfl, rfl, rfl, rfl⟩
    | fault r =>
      obtain ⟨m, n, hstep, -⟩ := step_is_perform s
      obtain ⟨hnone, -⟩ := fault_of_engineMove (fault_of_perform (hstep.symm.trans hst))
      cases hw.symm.trans hnone
    | refused r =>
      rcases refusalsAreInputs s r hst with ⟨p, hp, -⟩ | ⟨c, hc, -⟩
      · exact absurd hp (hwithdraw p)
      · exact absurd hc (hr c)
  · intro s ack err rest hw hs
    rw [step_of_sched hs]
    simp only [State.perform, State.pinAnswer, hw]
  · intro s ack err rest hs
    exact step_of_sched hs

/-! ### What a receiver latches (R85, R101, R102, R105) -/

/-- The four data levels, each set to its bit, are the nibble. -/
theorem nibble_of_bits (n : Nibble) :
    BitVec.ofBool n[3] ++ BitVec.ofBool n[2] ++ BitVec.ofBool n[1] ++ BitVec.ofBool n[0] = n := by
  revert n; decide

/-- The pins after a nibble: the data levels are its bits, E is low, RS is as it was (R101). -/
def Pins.afterNib (x : Pins) (n : Nibble) : Pins :=
  { d0 := n.getLsbD 0, d1 := n.getLsbD 1, d2 := n.getLsbD 2, d3 := n.getLsbD 3, rs := x.rs, e := false }

/-- A receiver latches a nibble once, at the fall of E, with RS as it is. -/
theorem latched_nibEvents (x : Pins) (n : Nibble) (es : List Event) :
    latched x (nibEvents n ++ es) = (x.rs, n) :: latched (x.afterNib n) es := by
  simp [nibEvents, writeEvents, waitEvents, latched, Pins.set, Pins.afterNib, nibble_of_bits]

/-- It latches a byte's high nibble and then its low one, both with RS at the byte's mode. -/
theorem latched_byteEvents (x : Pins) (v : Byte) (m : Bool) :
    latched x (byteEvents v m) = [(m, v.extractLsb' 4 4), (m, v.extractLsb' 0 4)] := by
  simp [byteEvents, writeEvents, waitEvents, latched, latched_nibEvents, Pins.set, Pins.afterNib]

/-- Settles O35: the `MacroStep`'s trace is known, and it is a byte's or a nibble's. -/
theorem receiverLatchesTheByte : Obligations.ReceiverLatchesTheByte := by
  have hmoves : ∀ (k : Nat) (st : MacroStep), ackMoves k [st] = (substepShape st).flatMap (substepMoves k) :=
    fun k st => List.flatMap_singleton _ _
  refine ⟨?_, ?_, ?_⟩
  · intro s st v m rest hv hw ht hj hst hsend hs
    rw [hmoves] at hs ⊢
    rcases hsend with rfl | ⟨r, rfl, rfl, rfl⟩ | ⟨i, p, rfl, ho, rfl, rfl⟩
    · obtain ⟨t, hrun, hready, hk, hj'⟩ := macroStep_run (p := 0) s hv hw ht hst hj nofun hs
      exact ⟨_, t, hrun, fun x => latched_byteEvents x v m, hk, hj', hready.sched⟩
    · obtain ⟨t, hrun, hready, hk, hj'⟩ := macroStep_run (p := 0) s hv hw ht hst hj nofun hs
      exact ⟨_, t, hrun, fun x => latched_byteEvents x (s.reg r) false, hk, hj', hready.sched⟩
    · obtain ⟨t, hrun, hready, hk, hj'⟩ := macroStep_run (p := p) s hv hw ht hst hj (fun _ _ => ho) hs
      exact ⟨_, t, hrun, fun x => latched_byteEvents x _ true, hk, hj', hready.sched⟩
  · intro s n rest hv hw ht hj hst hs
    rw [hmoves] at hs ⊢
    obtain ⟨t, hrun, hready, hk, hj'⟩ := macroStep_run (p := 0) s hv hw ht hst hj nofun hs
    refine ⟨_, t, hrun, fun x => ?_, hk, hj', hready.sched⟩
    simpa [State.stepEvents, latched] using latched_nibEvents x n []
  · intro v
    refine ⟨append_extract (n := 4) (m := 4) v, ?_, ?_⟩
    · have hv := v.isLt
      rw [BitVec.extractLsb'_toNat, Nat.shiftRight_eq_div_pow]
      omega
    · rw [BitVec.extractLsb'_toNat, Nat.shiftRight_zero]

/-! ### The output ports (R36, R54, R55, R82, R83, R89, R209) -/

section
variable {s t : State}

theorem readyOut_iff : s.readyOut = true ↔ Event.ready ∈ s.out := by
  simp [State.readyOut]

theorem bootErrOut_eq_none_iff : s.bootErrOut = none ↔ ∀ pin, Event.bootErr pin ∉ s.out := by
  rw [State.bootErrOut, List.findSome?_eq_none_iff]
  constructor
  · intro h pin hmem
    simpa using h _ hmem
  · intro h e he
    cases e with
    | bootErr pin => exact absurd he (h pin)
    | _ => rfl

theorem doneOut_eq_none_iff {p : Nat} :
    s.doneOut p = none ↔ ∀ op status info, Event.done p op status info ∉ s.out := by
  rw [State.doneOut, List.findSome?_eq_none_iff]
  constructor
  · intro h op status info hmem
    simpa using h _ hmem
  · intro h e he
    cases e with
    | done q op status info =>
      by_cases hq : q = p
      · subst hq; exact absurd he (h op status info)
      · simp [hq]
    | _ => rfl

theorem txtIdx_eq_some_iff {i : Half} : s.txtIdx = some i ↔ s.steps[s.seqStep.toNat]? = some (.char i) := by
  unfold State.txtIdx
  split
  · rename_i j hj
    simp [hj]
  · rename_i hne
    simpa using hne i

/-- READY and BOOT_ERR are shown when the automatic initialization ends only, and an operation or a write was then in
progress (R209). -/
theorem boot_of_event (hst : step s = .next t) (h : t.readyOut = true ∨ t.bootErrOut ≠ none) :
    s.cur.owner = .auto ∧ t.eng = .opened ∧ t.cur.valid = false ∧ (s.pw ≠ none ∨ s.cur.valid = true) := by
  obtain ⟨m, n, he, -⟩ := step_effect hst
  obtain ⟨e, hmem, hboot⟩ : ∃ e ∈ t.out, e = .ready ∨ ∃ pin, e = .bootErr pin := by
    rw [readyOut_iff, Ne, bootErrOut_eq_none_iff] at h
    push Not at h
    rcases h with h | ⟨pin, h⟩
    · exact ⟨_, h, .inl rfl⟩
    · exact ⟨_, h, .inr ⟨pin, rfl⟩⟩
  have hcause := effect_events he rfl hmem
  rcases hboot with rfl | ⟨pin, rfl⟩
  · simp at hcause; exact hcause
  · simp at hcause; exact hcause

/-- After the end of the automatic initialization nothing is in progress, so the next step shows neither again. -/
theorem no_boot_event_of_idle (hw : s.pw = none) (hv : s.cur.valid = false) (hst : step s = .next t) :
    t.readyOut = false ∧ t.bootErrOut = none := by
  by_contra hcon
  have hshown : t.readyOut = true ∨ t.bootErrOut ≠ none := by
    by_contra hno
    push Not at hno
    exact hcon ⟨by simpa using hno.1, hno.2⟩
  obtain ⟨-, -, -, hrun⟩ := boot_of_event hst hshown
  simp [hw, hv] at hrun

/-- A completion record answers the finished request of its port (R82). -/
theorem finishing_of_done {p : Nat} {op : Byte} {status : Status} {info : BitVec 3} (hst : step s = .next t)
    (h : Event.done p op status info ∈ t.out) : s.pend p = some (.finishing op status info) := by
  obtain ⟨m, n, he, -⟩ := step_effect hst
  have hcause := effect_events he rfl h
  simp at hcause
  exact hcause

/-- A text byte is read at the index of the current `Char`, which stays the current `MacroStep` (R51, R146). -/
theorem char_of_textRead {i : Half} {b : Byte} (hst : step s = .next t) (h : Event.textRead i b ∈ t.out) :
    s.currentStep = some (.char i) ∧ b = s.ownerByte i ∧ t.steps = s.steps ∧ t.seqStep = s.seqStep := by
  obtain ⟨m, n, he, -⟩ := step_effect hst
  have hcause := effect_events he rfl h
  simp at hcause
  obtain ⟨hc, -, hb, hl, hk⟩ := hcause
  exact ⟨hc, hb, hl, hk⟩

/-- A port's record is shown in the step that completes it, on no other port, and not after the next step (R36, R82). -/
theorem doneOut_of_complete {p : Nat} {op : Byte} {status : Status} {info : BitVec 3} {rest : List Move}
    (hp : s.pend p = some (.finishing op status info)) (hs : s.sched = .complete p :: rest) :
    ∃ t, step s = .next t ∧ t.doneOut p = some (statusCode status, info) ∧ (∀ q, q ≠ p → t.doneOut q = none) ∧
      ∀ u, step t = .next u → u.doneOut p = none := by
  have hpop : (s.popped rest).pend p = some (.finishing op status info) := hp
  have hout : ((s.popped rest).completePort p op status info).out = [.done p op status info] := rfl
  have hidle : ((s.popped rest).completePort p op status info).pend p = some .idle := by simp [hpop]
  refine ⟨(s.popped rest).completePort p op status info, ?_, ?_, fun q hq => ?_, fun u hu => ?_⟩
  · rw [step_of_sched hs]
    exact congrArg Host.Outcome.next (show (s.popped rest).completeMove p = _ by rw [State.completeMove, hpop])
  · simp [State.doneOut, hout]
  · simp [State.doneOut, hout, Ne.symm hq]
  · rw [doneOut_eq_none_iff]
    intro op' status' info' hmem
    cases hidle.symm.trans (finishing_of_done hu hmem)

/-- READY is shown, alone, in the step that ends the automatic initialization well, and not after the next (R209). -/
theorem readyOut_of_finish {rest : List Move} (hv : s.cur.valid = true) (ho : s.cur.owner = .auto) (hw : s.pw = none)
    (hc : s.currentStep = none) (hs : s.sched = .engine :: rest) :
    ∃ t, step s = .next t ∧ t.readyOut = true ∧ t.bootErrOut = none ∧
      ∀ u, step t = .next u → u.readyOut = false ∧ u.bootErrOut = none := by
  have hout : ((s.popped rest).endBoot .ready).out = [.ready] := endBoot_out _ _
  refine ⟨(s.popped rest).endBoot .ready, ?_, ?_, ?_, fun u hu => ?_⟩
  · rw [step_of_finish hs hv hw hc, finish_of_auto (s := s.popped rest) ho]
  · simp [readyOut_iff, hout]
  · simp [bootErrOut_eq_none_iff, hout]
  · exact no_boot_event_of_idle (by rw [State.endBoot_pw]; exact hw) (endBoot_valid _ _) hu

/-- BOOT_ERR is shown, alone and with the pin, in the step that aborts it, and not after the next (R209). -/
theorem bootErrOut_of_abort {pin : Pin} {b ack : Bool} {rest : List Move} (ho : s.cur.owner = .auto)
    (hw : s.pw = some (pin, b)) (hs : s.sched = .pinAnswer ack true :: rest) :
    ∃ t, step s = .next t ∧ t.readyOut = false ∧ t.bootErrOut = some (pinId pin) ∧
      ∀ u, step t = .next u → u.readyOut = false ∧ u.bootErrOut = none := by
  have hout : (((s.popped rest).failPin pin).endBoot (.bootErr (pinId pin))).out =
      [.failed pin, .bootErr (pinId pin)] := by rw [endBoot_out, failPin_out]; rfl
  refine ⟨((s.popped rest).failPin pin).endBoot (.bootErr (pinId pin)), ?_, ?_, ?_, fun u hu => ?_⟩
  · rw [step_of_sched hs, ← abort_of_auto (s := s.popped rest) ho]
    simp only [State.perform, State.pinAnswer, hw]
    rfl
  · rw [← Bool.not_eq_true, readyOut_iff, hout]; simp
  · simp [State.bootErrOut, hout]
  · exact no_boot_event_of_idle rfl (endBoot_valid _ _) hu

end

/-- Settles O43, clause by clause. -/
theorem outputPorts : Obligations.OutputPorts := by
  refine ⟨rfl, rfl, ?_, ?_, ?_, ?_, ?_, ?_, ?_, ?_⟩
  · intro s hw
    simp [State.pwValid, State.pwPort, hw]
  · intro s pin b hw
    simp [State.pwValid, State.pwPort, hw]
  · intro s p op status info rest hp hs
    exact doneOut_of_complete hp hs
  · intro s rest hv ho hw hend hs
    exact readyOut_of_finish hv ho hw (List.getElem?_eq_none hend) hs
  · intro s pin b ack rest ho hw hs
    exact bootErrOut_of_abort ho hw hs
  · intro s t hst hshown
    obtain ⟨ho, heng, hv, -⟩ := boot_of_event hst hshown
    exact ⟨ho, heng, hv⟩
  · intro s i
    exact txtIdx_eq_some_iff
  · intro s t i b hst hmem
    obtain ⟨hc, hb, hl, hk⟩ := char_of_textRead hst hmem
    refine ⟨txtIdx_eq_some_iff.mpr hc, txtIdx_eq_some_iff.mpr ?_, hb⟩
    rw [hl, hk]
    exact hc

end Sys2Proof.Machine

/-! The text memory, the agents' moves and the run of a whole operation (20_memory.md): what is read back from a text
buffer, which moves the block makes of itself, how a running operation is held and ended, and the trace of an
acknowledged operation from its grant to its end. -/

namespace Sys2Proof.Machine

/-! ### The text buffers (R50 to R53) -/

/-- Below the first index of a canonical buffer every byte is blank. -/
theorem Memory.read_of_lt {i : Nat} : ∀ {lo : Nat} (m : Memory), Memory.wfFrom lo m = true → i < lo →
    Memory.read m i = Memory.blankByte
  | _, [], _, _ => rfl
  | lo, (k, v) :: m, hm, hi => by
    simp only [Memory.wfFrom, Bool.and_eq_true, decide_eq_true_eq] at hm
    obtain ⟨⟨⟨hk, -⟩, -⟩, hm⟩ := hm
    rw [Memory.read, if_neg (by omega)]
    exact Memory.read_of_lt m hm (by omega)

/-- A write shows at its own index only. -/
theorem Memory.read_write_ne {i j : Nat} (b : Byte) (hj : j ≠ i) : ∀ m : Memory,
    Memory.read (Memory.write m i b) j = Memory.read m j
  | [] => by by_cases hb : b = Memory.blankByte <;> simp [Memory.write, Memory.read, hb, hj.symm]
  | (k, v) :: m => by
    rw [Memory.write]
    split
    · split
      · rfl
      · simp [Memory.read, hj.symm]
    · split
      · rename_i hk
        subst hk
        split <;> simp [Memory.read, hj.symm]
      · simp [Memory.read, Memory.read_write_ne b hj m]

/-- A byte written is read back; a blank one because a canonical buffer has no later cell of its index. -/
theorem Memory.read_write_self (i : Nat) (b : Byte) : ∀ {lo : Nat} (m : Memory), Memory.wfFrom lo m = true →
    Memory.read (Memory.write m i b) i = b
  | _, [], _ => by by_cases hb : b = Memory.blankByte <;> simp [Memory.write, Memory.read, hb]
  | lo, (k, v) :: m, hm => by
    have hparts := hm
    simp only [Memory.wfFrom, Bool.and_eq_true, decide_eq_true_eq] at hparts
    obtain ⟨⟨⟨-, hk⟩, hv⟩, hrest⟩ := hparts
    rw [Memory.write]
    split
    · rename_i hlt
      split
      · rename_i hb
        rw [hb]
        exact Memory.read_of_lt (lo := k) _ (by simp [Memory.wfFrom, hk, hv, hrest]) hlt
      · simp [Memory.read]
    · split
      · rename_i heq
        split
        · rename_i hb
          rw [hb]
          exact Memory.read_of_lt m hrest (by omega)
        · simp [Memory.read, heq]
      · rename_i hne
        simp [Memory.read, Ne.symm hne, Memory.read_write_self i b m hrest]

/-- What an index of a canonical buffer reads as after a write. -/
theorem Memory.read_write {m : Memory} (hm : Memory.wf m = true) (i j : Nat) (b : Byte) :
    Memory.read (Memory.write m i b) j = if j = i then b else Memory.read m j := by
  split
  · rename_i hj
    rw [hj]
    exact Memory.read_write_self i b m hm
  · rename_i hj
    exact Memory.read_write_ne b hj m

/-- Settles O39: the write keeps the canonical form, and each index is read by `read_write`. -/
theorem textReadAfterWrite : Obligations.TextReadAfterWrite := fun _ i j b hm hi =>
  ⟨Memory.wf_write b hi hm, Memory.read_write hm i j b⟩

/-- Settles O40: the step is the write to the port's own buffer. -/
theorem textWritesAreThePortsOwn : Obligations.TextWritesAreThePortsOwn := by
  intro s p i b rest htexts hp hs
  have htexts' : (s.popped rest).TextsWf := htexts
  refine ⟨(s.popped rest).setText p i b, step_of_sched hs, rfl, effect_keeps_texts htexts' (.text p i b),
    fun q => State.pend_setText _ p q i b, fun q a => ?_⟩
  rw [State.text_setText (s.popped rest) p q i b hp]
  by_cases hq : q = p
  · subst hq
    rw [if_pos rfl, Memory.read_write (textsWf_iff.mp htexts' q) i.toNat a b]
    simp only [true_and]
    rfl
  · rw [if_neg hq, if_neg fun h => hq h.1]
    rfl

/-! ### Posting and changing a word (R64, R141) -/

section
variable {s : State} {p : Nat} {w : Word} {x : Pend}

theorem postMove_of_pend (hp : s.pend p = some x) :
    s.postMove p w = if x = .idle then s.setPend p (.posted w) else s := by
  rw [State.postMove, hp]
  cases x <;> rfl

theorem changeMove_of_posted {v : Word} (hp : s.pend p = some (.posted v)) :
    s.changeMove p w = s.setPend p (.posted w) := by
  rw [State.changeMove, hp]

theorem changeMove_of_not_posted (hp : s.pend p = some x) (hx : ∀ v, x ≠ .posted v) : s.changeMove p w = s := by
  rw [State.changeMove, hp]
  cases x with
  | posted v => exact absurd rfl (hx v)
  | _ => rfl

end

/-- Settles O18: what each move does is decided by the port's request state. -/
theorem postingAndChangingAWord : Obligations.PostingAndChangingAWord := by
  intro s p w x rest hp
  have hp' : (s.popped rest).pend p = some x := hp
  constructor
  · intro hs
    have hstep : step s = .next ((s.popped rest).postMove p w) := step_of_sched hs
    rw [hstep, postMove_of_pend hp']
    exact ⟨fun hx => by rw [if_pos hx]; rfl, fun hx => by rw [if_neg hx]; rfl⟩
  · intro hs
    have hstep : step s = .next ((s.popped rest).changeMove p w) := step_of_sched hs
    rw [hstep]
    refine ⟨?_, fun hx => by rw [changeMove_of_not_posted hp' hx]; rfl⟩
    rintro ⟨v, rfl⟩
    rw [changeMove_of_posted hp']; rfl

/-! ### The block's own moves and the grant (R57, R136, R137, R140) -/

section
variable {s : State} {p : Nat} {w : Word} {i : Instr}

theorem ownMove_of_none (h : s.ownMoves = []) : s.ownMove = (.idle, s) := by
  rw [State.ownMove, h]

theorem ownMove_of_single {m : Move} (h : s.ownMoves = [m]) : s.ownMove = (m, s) := by
  rw [State.ownMove, h]

/-- An eligible port holds a word with a legal opcode, and the engine is free for it (R137). -/
theorem eligible_iff : s.eligible p = true ↔
    s.engineFree = true ∧ ∃ w, s.pend p = some (.posted w) ∧ legalOp (opField w) = true := by
  unfold State.eligible
  split
  · rename_i v hv
    simp [hv]
  · rename_i hne
    simpa using fun _ w hw => absurd hw (hne w)

/-- A free engine rejects no word with a legal opcode (R192). -/
theorem rejection_of_free (hf : s.engineFree = true) (hw : legalOp (opField w) = true) : s.rejection w = none := by
  simp [State.rejection, hw, (engineFree_iff.mp hf).1]

/-- The grant of every eligible port is enabled (R136, R140). -/
theorem grant_mem_ownMoves (h : s.eligible p = true) : .grant p ∈ s.ownMoves := by
  obtain ⟨hf, w, hp, hw⟩ := eligible_iff.mp h
  have hport : Move.grant p ∈ s.portMoves p := by
    simp [State.portMoves, hp, rejection_of_free hf hw, h]
  exact List.mem_append_right _ (List.mem_flatMap.mpr ⟨p, List.mem_range.mpr (s.lt_of_pend hp), hport⟩)

/-- The state in which a granted port's operation has its meaning run, field by field (R136). -/
def State.takenUp (s : State) (p : Nat) (w : Word) (rest : List Move) : State := { s with
  lock := some p
  cur := { valid := true, owner := .port p, op := opField w, arg := argField w, start := s.cur.start }
  ports := s.ports.modify p fun q => { q with pend := .granted }
  seqStep := 0
  txSub := 0
  sched := rest
  out := [.granted p] }

/-- It is the one that `takeUp` makes of the state a move meets. -/
theorem takeUp_popped (s : State) (p : Nat) (w : Word) (rest : List Move) :
    (s.popped rest).takeUp p w = s.takenUp p w rest := rfl

theorem State.pend_takenUp (s : State) (p q : Nat) (w : Word) (rest : List Move) :
    (s.takenUp p w rest).pend q = if q = p then (s.pend p).map fun _ => .granted else s.pend q := by
  rw [← takeUp_popped]
  exact State.pend_takeUp (s.popped rest) p q w

theorem State.text_takenUp (s : State) (p q : Nat) (w : Word) (rest : List Move) :
    (s.takenUp p w rest).text q = s.text q := by
  rw [← takeUp_popped]
  exact State.text_takeUp (s.popped rest) p q w

/-- The grant of a decoded request by a free engine runs its meaning (R136). -/
theorem grantMove_of_free (hp : s.pend p = some (.posted w)) (hd : decode w = .request i)
    (hf : s.engineFree = true) : s.grantMove p = exec i (s.takeUp p w) := by
  simp [State.grantMove, hp, hd, hf]

theorem step_of_grant {rest : List Move} (hs : s.sched = .grant p :: rest) (hp : s.pend p = some (.posted w))
    (hd : decode w = .request i) (hf : s.engineFree = true) : step s = exec i (s.takenUp p w rest) := by
  rw [step_of_sched hs, ← takeUp_popped]
  exact grantMove_of_free (s := s.popped rest) hp hd hf

theorem step_of_own_grant (hs : s.sched = []) (hown : s.ownMoves = [.grant p]) (hp : s.pend p = some (.posted w))
    (hd : decode w = .request i) (hf : s.engineFree = true) : step s = exec i (s.takenUp p w []) := by
  have hmeets : s.clearOut = s.popped [] := by simp [State.clearOut, State.popped, hs]
  rw [step_of_sched_nil hs, ownMove_of_single (s := s.clearOut) hown, hmeets, ← takeUp_popped]
  exact grantMove_of_free (s := s.popped []) hp hd hf

end

/-- Settles O17: a step is a move (`step_is_perform`), and the kinds of own moves are known (`ownMoves_kinds`). -/
theorem unscheduledStepIsEnabled : Obligations.UnscheduledStepIsEnabled := by
  intro s hs
  refine ⟨fun hnone => ?_, fun p hp => grant_mem_ownMoves hp, fun hsome => ?_, fun m hm => ownMoves_kinds hm⟩
  · rw [step_of_sched_nil hs, ownMove_of_none (s := s.clearOut) hnone]
    rfl
  · obtain ⟨m, n, hstep, hm⟩ := step_is_perform s
    have hmem : m ∈ s.ownMoves := by simpa [hs, hsome] using hm
    have hmeets : s.advanceSched n = { s with out := [], free := n } := by simp [State.advanceSched, hs]
    exact ⟨m, hmem, n, hmeets ▸ hstep⟩

/-- Settles O15: scheduled or the one enabled move, the grant runs the meaning of the decoded word. -/
theorem stepRunsGrantedRequest : Obligations.StepRunsGrantedRequest := by
  intro s p w i hp hd heng hv hl hnext
  have hf : s.engineFree = true := engineFree_iff.mpr ⟨heng, hv, hl⟩
  rcases hnext with hhead | ⟨hs, hown⟩
  · obtain ⟨rest, hs⟩ := List.head?_eq_some_iff.mp hhead
    rw [step_of_grant hs hp hd hf, hs]
    rfl
  · rw [step_of_own_grant hs hown hp hd hf, hs]
    rfl

/-! ### Later writes and failed writes (R55, R103, R196) -/

/-- Settles O26: past substep 0 the `MacroStep` has started, so the frame registers are not loaded again. -/
theorem laterWritesUseTheFrame : Obligations.LaterWritesUseTheFrame := by
  intro s pin b rest hv hw ht hj hsub hs
  obtain ⟨st, hc, hx, -⟩ := currentStep_of_currentSubstep hsub
  rw [step_of_write hs hv hw ht hc (by rw [started_of_sub_ne hj]; exact hx),
    started_of_sub_ne (s := s.popped rest) hj]
  rfl

/-- `err`, alone or with `ack`, aborts the operation at the pin in flight (R55, R196). -/
theorem step_of_failed {s : State} {pin : Pin} {b ack : Bool} {rest : List Move} (hw : s.pw = some (pin, b))
    (hs : s.sched = .pinAnswer ack true :: rest) : step s = .next ((s.popped rest).abort pin) := by
  rw [step_of_sched hs]
  simp only [State.perform, State.pinAnswer, hw]
  rfl

/-- The bookkeeping that ends with the operation, field by field (R138). -/
theorem putDown_eq (s : State) : s.putDown = { s with
    cur := { s.cur with valid := false }, seqStep := 0, txSub := 0, tmr := 0, steps := [] } := rfl

/-- `End`, field by field (R138). -/
theorem endOp_eq (s : State) (p : Nat) (status : Status) (info : BitVec 3) : s.endOp p status info = { s with
    lock := none, cur := { s.cur with valid := false }, seqStep := 0, txSub := 0, tmr := 0, steps := []
    ports := s.ports.modify p fun q => { q with pend := .finishing s.cur.op status info }
    out := s.out ++ [.ended p status info] } := by
  rw [State.endOp, putDown_eq]
  rfl

/-- The failed write, field by field (R196). -/
theorem failPin_eq (s : State) (pin : Pin) : s.failPin pin = { s with
    pw := none, pins := s.pins.set pin (Config.failedPinLevel s.free), free := s.free + 1
    out := s.out ++ [.failed pin] } := rfl

/-- Settles O29: the level of the failed pin is the free value that the abort takes. -/
theorem failedWriteAborts : Obligations.FailedWriteAborts := by
  intro s pin b ack p rest hw ho hs
  refine ⟨Config.failedPinLevel s.free, ?_⟩
  rw [step_of_failed hw hs, abort_of_port (s := s.popped rest) ho, endOp_eq, failPin_eq]
  rfl

/-! ### The framing of a nibble (R62, R107) -/

theorem framed_nibSubsteps (n : Nibble) (l : List Substep) : framed none (nibSubsteps n ++ l) = framed none l := rfl

theorem framed_byteSubsteps (v : Byte) (m : Bool) (l : List Substep) :
    framed none (byteSubsteps v m ++ l) = framed none l := by
  simp only [byteSubsteps, List.cons_append, List.append_assoc, framed, framed_nibSubsteps, List.nil_append]

/-- A `MacroStep` begins and ends outside a pulse. -/
theorem framed_substepShape (st : MacroStep) (l : List Substep) :
    framed none (substepShape st ++ l) = framed none l := by
  cases st with
  | wait us => rfl
  | nib n => exact framed_nibSubsteps _ l
  | byte v m => exact framed_byteSubsteps 0 m l
  | reg r => exact framed_byteSubsteps 0 false l
  | char i => exact framed_byteSubsteps 0 true l

theorem framed_stepList : ∀ l : List MacroStep, framed none (l.flatMap substepShape) = true
  | [] => rfl
  | st :: l => by
    rw [List.flatMap_cons, framed_substepShape]
    exact framed_stepList l

/-- Settles O36: every list of `MacroStep`s is framed, so every operation's is. -/
theorem stepListsAreFramed : Obligations.StepListsAreFramed := fun c i => framed_stepList (stepListOf c i)

/-! ### A running operation is held or ended (R61, R139, R149) -/

/-- The operation that runs in `s` has ended in `t`, with the end event of its owner (R138, R209). -/
def State.EndedIn (s t : State) : Prop :=
  t.cur = { s.cur with valid := false } ∧ t.lock = none ∧
    ((∃ p status info, s.cur.owner = .port p ∧ Event.ended p status info ∈ t.out) ∨
     (s.cur.owner = .auto ∧ (Event.ready ∈ t.out ∨ ∃ pin, Event.bootErr pin ∈ t.out)))

section
variable {s t : State} {m : Move}

/-- The automatic initialization holds no lock (R29). -/
theorem State.LockConsistent.unlocked_of_auto (h : s.LockConsistent) (ho : s.cur.owner = .auto) : s.lock = none :=
  Option.eq_none_iff_forall_ne_some.mpr fun p hp => by simpa [ho] using (h.lock_owner p).mp hp

theorem endedIn_finish (h : s.LockConsistent) : s.EndedIn s.finish := by
  refine ⟨State.finish_cur s, ?_⟩
  cases ho : s.cur.owner with
  | port p =>
    rw [finish_of_port ho]
    exact ⟨rfl, .inl ⟨p, .ok, 0, rfl, by simp [endOp_out]⟩⟩
  | auto =>
    rw [finish_of_auto ho]
    exact ⟨h.unlocked_of_auto ho, .inr ⟨rfl, .inl (by simp [endBoot_out])⟩⟩

theorem endedIn_abort (h : s.LockConsistent) (pin : Pin) : s.EndedIn (s.abort pin) := by
  refine ⟨State.abort_cur s pin, ?_⟩
  cases ho : s.cur.owner with
  | port p =>
    rw [abort_of_port ho]
    exact ⟨rfl, .inl ⟨p, .errIo, pinId pin, rfl, by simp [endOp_out]⟩⟩
  | auto =>
    rw [abort_of_auto ho]
    refine ⟨?_, .inr ⟨rfl, .inr ⟨pinId pin, by simp [endBoot_out]⟩⟩⟩
    rw [State.endBoot_lock, failPin_lock, h.unlocked_of_auto ho]

/-- While an operation runs, a move that is no reset keeps the registers, and keeps the operation or ends it. -/
theorem effect_of_running (h : s.LockConsistent) (hv : s.cur.valid = true) (he : Effect s m t)
    (hm : ∀ c, m ≠ .reset c) : t.dcr = s.dcr ∧ t.dmr = s.dmr ∧
    ((t.cur = s.cur ∧ t.lock = s.lock ∧ t.steps = s.steps) ∨ s.EndedIn t) := by
  cases he with
  | reset c hc => exact absurd rfl (hm c)
  | granted p w i t hp hf => exact absurd (hv.symm.trans (engineFree_iff.mp hf).2.1) nofun
  | failed pin b ack hw => exact ⟨by simp, by simp, .inr (endedIn_abort h pin)⟩
  | finished => exact ⟨by simp, by simp, .inr (endedIn_finish h)⟩
  | _ => simp

end

/-- Settles O56: a step is one move, and every move but reset's keeps the running operation or ends it. -/
theorem noPreemption : Obligations.NoPreemption := by
  intro s t h hv hr hst
  obtain ⟨m, n, he, hm⟩ := step_effect hst
  have hlock : (s.advanceSched n).LockConsistent := State.Inv.lock h.withSched
  exact effect_of_running (s := s.advanceSched n) hlock hv he (not_reset_of_step hr hm)

/-! ### The whole operation (R61, R136, R138) -/

section
variable {s t : State} {p : Nat} {w : Word} {i : Instr}

theorem exec_next (i : Instr) (s : State) : ∃ t, exec i s = .next t := by
  cases i <;> exact ⟨_, rfl⟩

/-- The events of a `MacroStep` depend on the registers and on the text alone. -/
theorem stepEvents_congr (hdcr : t.dcr = s.dcr) (hdmr : t.dmr = s.dmr) (htext : t.text p = s.text p) :
    t.stepEvents p = s.stepEvents p := by
  have hreg : ∀ r, t.reg r = s.reg r := by
    intro r
    cases r
    · exact hdcr
    · exact hdmr
  funext st
  cases st <;> simp [State.stepEvents, hreg, htext]

/-- From its start, with every write acknowledged, the step list is walked to the state `t` that ends the operation. -/
theorem stepList_run_to_finish {rest : List Move} (hv : s.cur.valid = true) (hw : s.pw = none) (ht : s.tmr = 0)
    (hk : s.seqStep = 0) (hj : s.txSub = 0) (hlen : s.steps.length < 256)
    (ho : ∀ i, MacroStep.char i ∈ s.steps → s.cur.owner = .port p)
    (hs : s.sched = ackMoves s.tClkNs s.steps ++ .engine :: rest) :
    ∃ t, runTrace ((ackMoves s.tClkNs s.steps).length + 1) s =
        some (s.steps.flatMap (s.stepEvents p) ++ t.finish.out, t.finish) ∧ Ready s t rest ∧ t.out = [] := by
  obtain ⟨u, hrun, hready, hend, -⟩ := stepList_run (p := p) s.steps s hv hw ht hj hlen (by simp [hk]) (by simp [hk])
    ho hs
  obtain ⟨hkept, hpw, htmr, hsched⟩ := hready
  have hpast : u.currentStep = none := List.getElem?_eq_none (by rw [hkept.steps, hend])
  have hlast := step_of_finish hsched (by rw [hkept.cur]; exact hv) hpw hpast
  have hready' : Ready s (u.popped rest) rest :=
    ⟨hkept.trans ⟨rfl, rfl, rfl, rfl, rfl, rfl, rfl, rfl, rfl, rfl⟩, hpw, htmr, rfl⟩
  refine ⟨u.popped rest, ?_, hready', rfl⟩
  have hall := runTrace_append hrun (runTrace_cons hlast (by rfl : runTrace 0 _ = _))
  rwa [List.append_nil] at hall

/-- What a grant leaves: its operation at the start of its step list, and nothing else in progress (R136). -/
theorem grant_starts (h : s.Inv) (hd : decode w = .request i) (hf : s.engineFree = true) {moves : List Move}
    (hx : exec i (s.takenUp p w moves) = .next t) :
    t.cur.valid = true ∧ t.cur.owner = .port p ∧ t.cur.op = opcode i ∧ t.steps = stepListOf s.cfg i ∧
    t.seqStep = 0 ∧ t.txSub = 0 ∧ t.tmr = 0 ∧ t.pw = none ∧ t.sched = moves ∧ t.out = [.granted p] := by
  obtain ⟨-, hv, -⟩ := engineFree_iff.mp hf
  obtain ⟨hpw, htmr, -⟩ := h.idle hv
  obtain ⟨-, hcur, -⟩ := exec_cur hx
  obtain ⟨hsteps, hk, hj, htmr', -, -, -, hpw'⟩ := exec_walk hx
  refine ⟨by rw [hcur]; rfl, by rw [hcur]; rfl, ?_, hsteps, hk, hj, htmr'.trans htmr, hpw'.trans hpw,
    (exec_sched hx).1, exec_out hx⟩
  rw [hcur, (legal_of_decode hd).2]
  rfl

theorem text_of_exec (hx : exec i s = .next t) (q : Nat) : t.text q = s.text q := by
  rw [State.text, (exec_parameters hx).2.2]; rfl

theorem pend_of_exec (hx : exec i s = .next t) (q : Nat) : t.pend q = s.pend q := by
  rw [State.pend, (exec_parameters hx).2.2]; rfl

theorem Kept.text (h : Kept s t) (q : Nat) : t.text q = s.text q := by
  rw [State.text, h.ports]; rfl

theorem Kept.pend (h : Kept s t) (q : Nat) : t.pend q = s.pend q := by
  rw [State.pend, h.ports]; rfl

/-- The trace of a granted operation: from the grant step to `g`, through the whole step list to `u`, to the end step. -/
theorem granted_run {rest : List Move} (h : s.Inv) (hp : s.pend p = some (.posted w)) (hd : decode w = .request i)
    (hf : s.engineFree = true) (hs : s.sched = .grant p :: (ackMoves s.tClkNs (stepListOf s.cfg i) ++ .engine :: rest)) :
    ∃ g u, exec i (s.takenUp p w (ackMoves s.tClkNs (stepListOf s.cfg i) ++ .engine :: rest)) = .next g ∧
      g.cur.op = opcode i ∧ Ready g u rest ∧
      runTrace ((ackMoves s.tClkNs (stepListOf s.cfg i)).length + 2) s = some (.granted p ::
        ((stepListOf s.cfg i).flatMap (({ s with dcr := regAfter i .dcr s.dcr, dmr := regAfter i .dmr s.dmr } :
          State).stepEvents p) ++ [.ended p .ok 0]), u.endOp p .ok 0) := by
  obtain ⟨g, hx⟩ := exec_next i (s.takenUp p w (ackMoves s.tClkNs (stepListOf s.cfg i) ++ .engine :: rest))
  obtain ⟨hv, ho, hop, hsteps, hk, hj, ht, hw, hsched, hout⟩ := grant_starts h hd hf hx
  obtain ⟨hdcr, hdmr⟩ := exec_registers hx
  have hclk : g.tClkNs = s.tClkNs := (exec_parameters hx).2.1
  have htext : g.text p = s.text p := (text_of_exec hx p).trans (s.text_takenUp p p w _)
  have hlen : g.steps.length < 256 := by
    rw [hsteps]
    exact (stepListOf_length s.cfg i).trans_lt (by decide)
  obtain ⟨u, hrun, hready, hnone⟩ := stepList_run_to_finish (p := p) hv hw ht hk hj hlen (fun _ _ => ho)
    (by rw [hsched, hsteps, hclk])
  have hend : u.finish = u.endOp p .ok 0 := finish_of_port (by rw [hready.kept.cur]; exact ho)
  have hall := runTrace_cons ((step_of_grant hs hp hd hf).trans hx) hrun
  rw [hend, endOp_out, hnone, hout, hsteps, hclk, stepEvents_congr
    (s := { s with dcr := regAfter i .dcr s.dcr, dmr := regAfter i .dmr s.dmr }) hdcr hdmr htext] at hall
  exact ⟨g, u, hx, hop, hready, hall⟩

end

/-- Settles O59: the trace is `granted_run`'s, and the end state is what the meaning, the walk and the end leave. -/
theorem grantedOperationRunsToItsEnd : Obligations.GrantedOperationRunsToItsEnd := by
  intro s p w i rest h he hp hd hs
  obtain ⟨hf, -⟩ := eligible_iff.mp he
  have heng : s.eng = .opened := (engineFree_iff.mp hf).1
  have hoe : s.oe = true := by
    rw [← Bool.not_eq_false]
    exact mt h.pins.mp (by simp [heng])
  obtain ⟨g, u, hx, hop, ⟨hkept, hpw, -, hsched⟩, hrun⟩ := granted_run h hp hd hf hs
  obtain ⟨hdcr, hdmr⟩ := exec_registers hx
  obtain ⟨heng', hoe'⟩ := exec_phase hx
  have hpend : ∀ q, u.pend q = if q = p then some .granted else s.pend q := fun q => by
    rw [hkept.pend, pend_of_exec hx, State.pend_takenUp, hp]; rfl
  refine ⟨u.endOp p .ok 0, hrun, ?_, ?_, endOp_valid u p .ok 0, endOp_lock u p .ok 0, ?_, endOp_tmr u p .ok 0,
    ?_, fun q hq => ?_, ?_, ?_, ?_, ?_, fun q a => ?_⟩
  · rw [State.endOp_dcr, hkept.dcr, hdcr]; rfl
  · rw [State.endOp_dmr, hkept.dmr, hdmr]; rfl
  · rw [State.endOp_pw, hpw]
  · rw [State.pend_endOp, if_pos rfl, hpend, if_pos rfl, hkept.cur, hop]; rfl
  · rw [State.pend_endOp, if_neg hq, hpend, if_neg hq]
  · rw [State.endOp_eng, hkept.eng, heng', ← heng]; rfl
  · rw [State.endOp_oe, hkept.oe, hoe', show (s.takenUp p w _).oe = true from hoe]
    by_cases hi : i = .close <;> simp [hi]
  · rw [State.endOp_cfg, hkept.cfg, (exec_parameters hx).1]; rfl
  · rw [State.endOp_sched, hsched]
  · rw [State.text_endOp, hkept.text, text_of_exec hx, State.text_takenUp]

end Sys2Proof.Machine

/-! The request word and its answers (30_encoding.md): the encoder and the decoder are inverse up to the bits a format
ignores, and every completion record, end and rejection answers a request of its port. -/

namespace Sys2Proof

/-! ### The request word (R70 to R80) -/

/-- Settles O1: the words are written out, so the decoder and the encoder compute. -/
theorem exampleWordsDecode : Obligations.ExampleWordsDecode := by
  unfold Obligations.ExampleWordsDecode
  decide

theorem decodeFields_print (arg : Half) : decodeFields 0x01 arg = .request (.print arg.toNat) := rfl

theorem decodeFields_setCursor (arg : Half) :
    decodeFields 0x04 arg = .request (.setCursor (colField arg).toNat (rowField arg).toNat) := rfl

/-- The argument field of a well-formed operation holds its arguments whole, so decoding reads them back. -/
theorem decode_encode {i : Instr} (h : i.wf = true) : decode (encode i) = .request i := by
  rw [encode, decode_append]
  cases i with
  | print len =>
    have hlen : len < 65536 := by simpa [Instr.wf] using h
    rw [opcode, argument, decodeFields_print, BitVec.toNat_ofNat, Nat.mod_eq_of_lt hlen]
  | setCursor col row =>
    obtain ⟨hcol, hrow⟩ : col < 256 ∧ row < 256 := by simpa [Instr.wf] using h
    rw [opcode, argument, decodeFields_setCursor, colField_append, rowField_append, BitVec.toNat_ofNat,
      BitVec.toNat_ofNat, Nat.mod_eq_of_lt hcol, Nat.mod_eq_of_lt hrow]
  | _ => rfl

/-- Settles O2, by the operation's argument. -/
theorem decodeOfEncode : Obligations.DecodeOfEncode := fun _ h => decode_encode h

/-- Only opcode `0x04` is SETCURSOR, and its position is the two bytes of the argument field (R73). -/
theorem setCursor_of_decodeFields {op : Byte} {arg : Half} {col row : Nat}
    (h : decodeFields op arg = .request (.setCursor col row)) :
    col = (colField arg).toNat ∧ row = (rowField arg).toNat := by
  obtain ⟨-, rfl⟩ := legal_of_decodeFields h
  rw [opcode, decodeFields_setCursor] at h
  cases h
  exact ⟨rfl, rfl⟩

/-- What the decoder reads from a field fits that field. -/
theorem wf_of_decodeFields {op : Byte} {arg : Half} {i : Instr} (h : decodeFields op arg = .request i) :
    i.wf = true := by
  cases i with
  | print len =>
    rw [print_of_decodeFields h]
    exact decide_eq_true arg.isLt
  | setCursor col row =>
    obtain ⟨rfl, rfl⟩ := setCursor_of_decodeFields h
    have hcol : (colField arg).toNat < 256 := (colField arg).isLt
    have hrow : (rowField arg).toNat < 256 := (rowField arg).isLt
    simp [Instr.wf, hcol, hrow]
  | _ => rfl

/-- The two formats with an argument are PRINT's and SETCURSOR's; every other operation has zeros there (R75, R79). -/
theorem argument_eq_zero {i : Instr} (hprint : opcode i ≠ 0x01) (hset : opcode i ≠ 0x04) : argument i = 0 := by
  cases i with
  | print len => exact absurd rfl hprint
  | setCursor col row => exact absurd rfl hset
  | _ => rfl

/-- Where the format has an argument, the argument field is encoded as it was decoded (R73, R74). -/
theorem argument_of_decodeFields {op : Byte} {arg : Half} {i : Instr} (h : decodeFields op arg = .request i)
    (hop : op = 0x01 ∨ op = 0x04) : argument i = arg := by
  rcases hop with rfl | rfl
  · rw [decodeFields_print] at h
    cases h
    simp [argument]
  · rw [decodeFields_setCursor] at h
    cases h
    simp [argument, append_argument_fields]

/-- Settles O3: the opcode is the word's, and the argument is the word's or zero by the format. -/
theorem encodeOfDecode : Obligations.EncodeOfDecode := by
  intro w i h
  have hop : opcode i = opField w := (legal_of_decode h).2
  refine ⟨wf_of_decodeFields h, hop, fun harg => ?_, fun hprint hset => ?_⟩
  · rw [encode, hop, argument_of_decodeFields h harg, append_fields]
  · rw [encode, argument_eq_zero (hop ▸ hprint) (hop ▸ hset), hop]

/-- Settles O4: the two cases of the decoder's opcode. -/
theorem opcodeDecides : Obligations.OpcodeDecides := by
  intro w
  refine ⟨fun hle => decodeFields_of_legal _ _ ((legalOp_iff _).mpr hle), fun hge => ?_⟩
  refine decodeFields_of_illegal _ _ ?_
  rw [← Bool.not_eq_true, legalOp_iff]
  omega

/-- The decoder sees no difference between any argument bits and zeros where the format ignores them: what it reads
is encoded with zeros there and decoded again to the same operation (R75). -/
theorem decodeFields_ignores {op : Byte} (arg : Half) (hprint : op ≠ 0x01) (hset : op ≠ 0x04) :
    decodeFields op arg = decodeFields op 0 := by
  cases hl : legalOp op with
  | true =>
    obtain ⟨i, hi, rfl⟩ := decodeFields_of_legal op arg hl
    have hback := decode_encode (wf_of_decodeFields hi)
    rw [encode, decode_append, argument_eq_zero hprint hset] at hback
    rw [hi, hback]
  | false => rw [decodeFields_of_illegal op arg hl, decodeFields_of_illegal op 0 hl]

/-- Settles O5: both words decode as the one with zero argument bits does. -/
theorem argumentBitsIgnored : Obligations.ArgumentBitsIgnored := by
  refine ⟨fun op a b hprint hset => ?_, fun i => argument_eq_zero⟩
  rw [decode_append, decode_append, decodeFields_ignores a hprint hset, decodeFields_ignores b hprint hset]

end Sys2Proof

namespace Sys2Proof.Machine

/-! ### The completion record and its notification (R82, R84, R142) -/

/-- The scheduled completion of a finished request (R142). -/
theorem step_of_complete {s : State} {p : Nat} {op : Byte} {status : Status} {info : BitVec 3} {rest : List Move}
    (hp : s.pend p = some (.finishing op status info)) (hs : s.sched = .complete p :: rest) :
    step s = .next ((s.popped rest).completePort p op status info) := by
  have hpop : (s.popped rest).pend p = some (.finishing op status info) := hp
  rw [step_of_sched hs]
  exact congrArg Host.Outcome.next (show (s.popped rest).completeMove p = _ by rw [State.completeMove, hpop])

/-- Settles O21: the completed port, field by field. -/
theorem completionFreesThePort : Obligations.CompletionFreesThePort := fun _ _ _ _ _ _ hp hs =>
  step_of_complete hp hs

theorem notificationOf_of_not_ok (op : Byte) {status : Status} (h : status ≠ .ok) :
    notificationOf op status = some .error := by
  cases status with
  | ok => exact absurd rfl h
  | errProgramming | errIo | errClosed => rfl

/-- The four named opcodes are `0x00 .. 0x03` (R84). -/
theorem notificationOf_ok_above {op : Byte} (h : 0x03 < op.toNat) : notificationOf op .ok = none := by
  have hne : ∀ k : Byte, k.toNat ≤ 0x03 → op ≠ k := by
    rintro k hk rfl
    omega
  simp [notificationOf, hne]

/-- Settles O44: the four names, any error, and every later opcode. -/
theorem namedNotifications : Obligations.NamedNotifications :=
  ⟨rfl, fun _ => rfl, rfl, rfl, fun op _ h => notificationOf_of_not_ok op h, fun _ h => notificationOf_ok_above h⟩

/-! ### What an answer answers (R82, R83, R138, R142, R194) -/

/-- What an event seen in the step from `s` to `t` says of the request it answers; other events say nothing. -/
def State.Answers (s t : State) : Event → Prop
  | .done p op status info => s.pend p = some (.finishing op status info) ∧ t.pend p = some .idle
  | .ended p status info => s.cur.owner = .port p ∧ t.lock = none ∧ t.cur.valid = false ∧
      (status = .ok ∧ info = 0 ∨ status = .errIo ∧ ∃ pin b, s.pw = some (pin, b) ∧ info = pinId pin)
  | .rejected p status => ∃ w, s.pend p = some (.posted w) ∧ t.pend p = some (.finishing (opField w) status 0) ∧
      (status = .errProgramming ∨ status = .errClosed)
  | _ => True

section
variable {s t : State} {m : Move} {e : Event}

/-- The end of a step list is answered OK, to the owner (R138, R209). -/
theorem answers_finish (ho : s.out = []) (h : e ∈ s.finish.out) : s.Answers s.finish e := by
  cases hc : s.cur.owner with
  | port p =>
    rw [finish_of_port hc] at h ⊢
    obtain rfl : e = .ended p .ok 0 := by simpa [endOp_out, ho] using h
    exact ⟨hc, rfl, rfl, .inl ⟨rfl, rfl⟩⟩
  | auto =>
    rw [finish_of_auto hc] at h
    obtain rfl : e = .ready := by simpa [endBoot_out, ho] using h
    trivial

/-- An abort is answered ERR_IO with the pin in flight, to the owner (R196, R209). -/
theorem answers_abort {pin : Pin} {b : Bool} (hw : s.pw = some (pin, b)) (ho : s.out = [])
    (h : e ∈ (s.abort pin).out) : s.Answers (s.abort pin) e := by
  cases hc : s.cur.owner with
  | port p =>
    rw [abort_of_port hc] at h ⊢
    obtain rfl | rfl : e = .failed pin ∨ e = .ended p .errIo (pinId pin) := by
      simpa [endOp_out, failPin_out, ho] using h
    · trivial
    · exact ⟨hc, rfl, rfl, .inr ⟨rfl, pin, b, hw, rfl⟩⟩
  | auto =>
    rw [abort_of_auto hc] at h
    obtain rfl | rfl : e = .failed pin ∨ e = .bootErr (pinId pin) := by
      simpa [endBoot_out, failPin_out, ho] using h
    · trivial
    · trivial

/-- A rejection is for an illegal opcode or for a closed engine (R191, R192). -/
theorem status_of_rejection {w : Word} {status : Status} (h : s.rejection w = some status) :
    status = .errProgramming ∨ status = .errClosed := by
  unfold State.rejection at h
  split at h
  · split at h
    · exact .inr (Option.some.inj h).symm
    · cases h
  · exact .inl (Option.some.inj h).symm

/-- The start of a `MacroStep` answers nobody. -/
theorem answers_started {st : MacroStep} (ho : s.out = []) (h : e ∈ (s.started st).out) : s.Answers t e := by
  rcases mem_started_out h with h | ⟨i, -, -, rfl⟩
  · rw [ho] at h; cases h
  · trivial

/-- Of the moves, only the end, the abort, the rejection and the completion answer a request. -/
theorem effect_answers (he : Effect s m t) (ho : s.out = []) (h : e ∈ t.out) : s.Answers t e := by
  cases he with
  | still | word | text => simp [ho] at h
  | reset c hc =>
    obtain rfl : e = .resetSeen := by simpa [State.applyReset] using h
    trivial
  | failed pin b ack hw => exact answers_abort hw ho h
  | acked pin b hw =>
    obtain rfl : e = .acked pin b := by simpa [State.ackWrite, ho] using h
    trivial
  | finished hv hw hc => exact answers_finish ho h
  | issued st pin b hv hw hc ht hs =>
    obtain h | rfl : e ∈ (s.started st).out ∨ e = .issued pin b := by simpa [State.issue] using h
    · exact answers_started ho h
    · trivial
  | waited st us hv hw hc hs =>
    rcases mem_waitStep_out h with h | rfl | rfl
    · exact answers_started ho h
    · trivial
    · trivial
  | granted p w i _ hp hf hd hx =>
    obtain rfl : e = .granted p := by simpa [exec_out hx, State.takeUp, ho] using h
    trivial
  | rejected p w status hp hr =>
    obtain rfl : e = .rejected p status := by simpa [State.rejectPort, ho] using h
    exact ⟨w, hp, by simp [hp], status_of_rejection hr⟩
  | completed p op status info hp =>
    obtain rfl : e = .done p op status info := by simpa [State.completePort, ho] using h
    exact ⟨hp, by simp [hp]⟩

end

/-- Settles O22: a step is one move, and every event of a move says what it answers. -/
theorem recordsAnswerRequestsOnce : Obligations.RecordsAnswerRequestsOnce := by
  intro s t p hst
  obtain ⟨m, n, he, -⟩ := step_effect hst
  have hanswers : ∀ e ∈ t.out, (s.advanceSched n).Answers t e := fun e => effect_answers he rfl
  exact ⟨fun op status info h => hanswers _ h, fun status info h => hanswers _ h, fun status h => hanswers _ h⟩

end Sys2Proof.Machine

/-! The transmission engine (40_transmission_engine.md): the substeps of a nibble and of a byte, their counts, and the
wait, which holds the position until its load has run out. -/

namespace Sys2Proof.Machine

/-! ### Substeps and their counts (R101, R102, R106) -/

theorem getLsbD_highNibble (v : Byte) {k : Nat} (hk : k < 4) : (highNibble v).getLsbD k = v.getLsbD (4 + k) := by
  simp [highNibble, hk]

theorem getLsbD_lowNibble (v : Byte) {k : Nat} (hk : k < 4) : (lowNibble v).getLsbD k = v.getLsbD k := by
  simp [lowNibble, hk]

/-- Settles O23: a byte's substeps are those of its two nibbles, whose bits are the byte's. -/
theorem nibbleAndByteSubsteps : Obligations.NibbleAndByteSubsteps := by
  refine ⟨fun n => rfl, fun v m => ?_⟩
  simp only [byteSubsteps, nibSubsteps, getLsbD_highNibble v, getLsbD_lowNibble v, Nat.reduceLT, Nat.reduceAdd]
  rfl

theorem pinWrites_singleton (st : MacroStep) : pinWrites [st] = ((substepShape st).filter isWrite).length := by
  simp [pinWrites]

theorem minDuration_singleton (st : MacroStep) : minDuration [st] = ((substepShape st).map waitOf).sum := by
  simp [minDuration]

theorem counts_nibSubsteps (n : Nibble) :
    ((nibSubsteps n).filter isWrite).length = 6 ∧ ((nibSubsteps n).map waitOf).sum = 1 := ⟨rfl, rfl⟩

/-- The writes of a byte are RS and its nibbles' writes; its waits are its nibbles' waits and the settle wait. -/
theorem counts_byteSubsteps (v : Byte) (m : Bool) :
    ((byteSubsteps v m).filter isWrite).length = 13 ∧
      ((byteSubsteps v m).map waitOf).sum = if m then 45 else 41 := by
  obtain ⟨hwriteH, hwaitH⟩ := counts_nibSubsteps (highNibble v)
  obtain ⟨hwriteL, hwaitL⟩ := counts_nibSubsteps (lowNibble v)
  constructor
  · simp [byteSubsteps, List.filter_cons, isWrite, hwriteH, hwriteL]
  · have hsettle : (if m then tChr else tCmd) + 2 = if m then 45 else 41 := by cases m <;> rfl
    simp [byteSubsteps, waitOf, hwaitH, hwaitL, ← hsettle]
    omega

/-- Settles O24: a `MacroStep` has the writes and the waits of its one wait, its nibble, or its byte. -/
theorem substepCounts : Obligations.SubstepCounts := by
  simp only [Obligations.SubstepCounts, pinWrites_singleton, minDuration_singleton]
  exact ⟨substepsOf_length, fun us => ⟨rfl, rfl⟩, fun n => ⟨rfl, counts_nibSubsteps _⟩,
    fun v m => ⟨rfl, counts_byteSubsteps _ m⟩, fun i => ⟨rfl, counts_byteSubsteps _ true⟩⟩

/-! ### The wait (R104, R139, R241) -/

/-- One more step after a run (R14). -/
theorem run_succ_of_next {M : Host.Core} {k : Nat} {s t : M.State} (h : M.run k s = .next t) :
    M.run (k + 1) s = M.step t := by
  induction k generalizing s with
  | zero =>
    cases h
    cases hst : M.step t <;> simp [Host.Core.run, hst]
  | succ k ih =>
    rw [Host.Core.run] at h ⊢
    cases hst : M.step s with
    | next u =>
      rw [hst] at h
      exact ih h
    | fault r => rw [hst] at h; cases h
    | refused r => rw [hst] at h; cases h

/-- `s` with `n` clock periods of a wait to go: what a wait in progress has changed. -/
def State.inWait (s : State) (n : Nat) (l : List Move) (o : List Event) : State :=
  { s with tmr := n, sched := l, out := o }

section
variable {s t : State} {m : Move} {us : Nat} {rest : List Move}

/-- At a `Wait` the substep is its wait. -/
theorem currentSubstep_of_wait (hc : s.steps[s.seqStep.toNat]? = some (.wait us)) (hj : s.txSub = 0) :
    s.currentSubstep = some (.wait us) := by
  rw [currentSubstep_eq hc, hj]
  rfl

/-- The engine's step during a `Wait`, when it is the scheduled move. -/
theorem step_of_waitStep (hv : s.cur.valid = true) (hw : s.pw = none)
    (hc : s.steps[s.seqStep.toNat]? = some (.wait us)) (hj : s.txSub = 0) (hs : s.sched = .engine :: rest) :
    step s = .next ((s.popped rest).waitStep us) := by
  have hsub : (substepsOf (.wait us) (s.started (.wait us)).frv (s.started (.wait us)).frm)[s.txSub.toNat]? =
      some (.wait us) := by rw [hj]; rfl
  rw [step_of_wait hs hv hw hc hsub, popped_started_of_wait rest hsub]

/-- The start of a `Wait` and the first `k` of its clock periods change the timer alone. -/
theorem run_of_wait (hv : s.cur.valid = true) (hw : s.pw = none) (ht : s.tmr = 0)
    (hc : s.steps[s.seqStep.toNat]? = some (.wait us)) (hj : s.txSub = 0) {k : Nat} (hk : k < timerLoad us s.tClkNs)
    (hs : s.sched = .engine :: (List.replicate k .engine ++ rest)) :
    ∃ o, Host.Core.run core (k + 1) s = .next (s.inWait (timerLoad us s.tClkNs - k) rest o) := by
  induction k generalizing rest with
  | zero =>
    have hstep : step s = _ := (step_of_waitStep hv hw hc hj hs).trans
      (congrArg Host.Outcome.next (waitStep_begins (s := s.popped rest) ht))
    exact ⟨[.waitBegun us], (run_succ_of_next (M := core) (k := 0) (s := s) rfl).trans hstep⟩
  | succ k ih =>
    obtain ⟨o, hrun⟩ := ih (rest := .engine :: rest) (Nat.lt_of_succ_lt hk)
      (by rw [hs, List.replicate_succ', List.append_assoc]; rfl)
    obtain ⟨n, hn⟩ := Nat.exists_eq_add_of_le' (Nat.le_sub_of_add_le' hk : 2 ≤ timerLoad us s.tClkNs - k)
    rw [hn] at hrun
    refine ⟨[], ?_⟩
    rw [run_succ_of_next hrun, show timerLoad us s.tClkNs - (k + 1) = n + 1 by omega]
    exact (step_of_waitStep (s := s.inWait (n + 2) (.engine :: rest) o) hv hw hc hj rfl).trans
      (congrArg Host.Outcome.next (waitStep_counts rfl))

/-- With more than one clock period to go, a move that is no reset reaches the ports and the outputs only, or is the
engine's and counts one period. -/
theorem effect_of_waiting (h : s.WalkInv) (ht : 1 < s.tmr) (he : Effect s m t) (hm : ∀ c, m ≠ .reset c) :
    t = { s with ports := t.ports, out := t.out } ∨ t = s.setTmr (s.tmr - 1) := by
  have hne : s.tmr ≠ 0 := Nat.ne_zero_of_lt ht
  obtain ⟨hv, us, hsub, -⟩ := h.timer hne
  cases he with
  | still | word | text | rejected | completed => exact .inl rfl
  | reset c hc => exact absurd rfl (hm c)
  | failed _ _ _ hw | acked _ _ hw => exact absurd (h.write _ _ hw).2.1 hne
  | finished _ _ hc =>
    obtain ⟨st, hc', -⟩ := currentStep_of_currentSubstep hsub
    cases hc.symm.trans hc'
  | issued st pin b _ _ _ hzero => exact absurd hzero hne
  | waited st us' _ _ hc hs =>
    rw [started_of_wait hs, waitStep_counts (n := s.tmr - 2) (by omega), show s.tmr - 2 + 1 = s.tmr - 1 by omega]
    exact .inr rfl
  | granted p w i t hp hf => exact absurd (hv.symm.trans (engineFree_iff.mp hf).2.1) nofun

end

/-- Settles O33: the timer counts down from its load, and at its last period the wait ends. -/
theorem waitHoldsThePosition : Obligations.WaitHoldsThePosition := by
  intro s us rest hv hw ht hc hj hs
  have hrun : ∀ k, k < timerLoad us s.tClkNs → ∃ o, Host.Core.run core (k + 1) s = .next (s.inWait
      (timerLoad us s.tClkNs - k) (List.replicate (timerLoad us s.tClkNs - k) .engine ++ rest) o) := by
    intro k hk
    refine run_of_wait hv hw ht hc hj hk ?_
    rw [hs, ← List.append_assoc, List.replicate_append_replicate, Nat.add_sub_cancel' hk.le]
  constructor
  · intro k hk
    obtain ⟨o, h⟩ := hrun k hk
    exact ⟨_, h, rfl, rfl, rfl⟩
  · obtain ⟨n, hn⟩ := Nat.exists_eq_add_of_le' (timerLoad_pos us s.tClkNs)
    obtain ⟨o, h⟩ := hrun n (by omega)
    rw [hn, Nat.add_sub_cancel_left] at h
    have hsub : (s.inWait 1 (.engine :: rest) o).currentSubstep = some (.wait us) := currentSubstep_of_wait hc hj
    rw [hn, run_succ_of_next h]
    refine ((waitEndAdvancesThePosition (s.inWait 1 _ o) us _ rest hv hw rfl hc hsub rfl).2
      (Nat.le_add_left 1 _)).trans ?_
    rw [← hj]
    rfl

/-- Settles O34: the step's move leaves the engine as it is or counts one clock period, and at a wait no write is in
flight. -/
theorem waitCannotBeCutShort : Obligations.WaitCannotBeCutShort := by
  intro s t h ht hr hst
  obtain ⟨m, n, he, hm⟩ := step_effect hst
  have hwalk : (s.advanceSched n).WalkInv := h.walk.withPorts
  have hw : s.pw = none := Option.eq_none_iff_forall_ne_some.mpr fun w hw =>
    absurd (h.write w.1 w.2 hw).2.1 (Nat.ne_zero_of_lt ht)
  rcases effect_of_waiting hwalk ht he (not_reset_of_step hr hm) with hstay | hcount
  · rw [hstay]
    exact ⟨rfl, rfl, rfl, rfl, hw, .inl rfl⟩
  · rw [hcount]
    exact ⟨rfl, rfl, rfl, rfl, hw, .inr (Nat.sub_add_cancel ht.le)⟩

end Sys2Proof.Machine

/-! The initialization sequencer (41_init_sequencer.md): INIT's step list, the end of the automatic initialization and
its whole run. -/

namespace Sys2Proof.Machine

/-! ### The step list of INIT (R120 to R122) -/

/-- The function-set byte of one row, by the font (R87, R122). -/
theorem functionSet_of_one_row {c : Cfg} (h : c.rows = 1) :
    functionSet c = if c.largeFont then 0x24 else 0x20 := by
  cases hf : c.largeFont <;> simp [functionSet, h, hf]

/-- With more rows the font does not matter (R87, R122). -/
theorem functionSet_of_rows {c : Cfg} (h : 1 < c.rows) : functionSet c = 0x28 := by
  simp [functionSet, h, h.ne']

/-- Settles O11: the list is `initSteps`, whose one byte that depends on the configuration is `functionSet`'s. -/
theorem initWalksFourteenSteps : Obligations.InitWalksFourteenSteps := fun s =>
  ⟨functionSet s.cfg, rfl, functionSet_of_one_row, functionSet_of_rows⟩

/-- INIT reads no text (R121). -/
theorem char_not_mem_initSteps (c : Cfg) (i : Half) : MacroStep.char i ∉ initSteps c := by
  simp [initSteps]

/-! ### The end of the automatic initialization (R123, R209) -/

section
variable {s : State} {rest : List Move}

/-- The end of the automatic initialization, field by field (R123, R209). -/
theorem endBoot_eq (s : State) (e : Event) : s.endBoot e = { s with
    cur := { s.cur with valid := false }, eng := .opened, seqStep := 0, txSub := 0, tmr := 0, steps := []
    out := s.out ++ [e] } := by
  rw [State.endBoot, putDown_eq]
  rfl

/-- Past its last `MacroStep` the automatic initialization ends with `READY`. -/
theorem step_of_boot_finished (hv : s.cur.valid = true) (ho : s.cur.owner = .auto) (hw : s.pw = none)
    (hend : s.steps.length ≤ s.seqStep.toNat) (hs : s.sched = .engine :: rest) :
    step s = .next ((s.popped rest).endBoot .ready) := by
  rw [step_of_finish hs hv hw (List.getElem?_eq_none hend), finish_of_auto (s := s.popped rest) ho]

/-- A failed write ends the automatic initialization with `BOOT_ERR` of its pin. -/
theorem step_of_boot_failed {pin : Pin} {b ack : Bool} (ho : s.cur.owner = .auto) (hw : s.pw = some (pin, b))
    (hs : s.sched = .pinAnswer ack true :: rest) :
    step s = .next (((s.popped rest).failPin pin).endBoot (.bootErr (pinId pin))) := by
  rw [step_of_failed hw hs, abort_of_auto (s := s.popped rest) ho]

end

/-- Settles O30: both ends are `endBoot`, and the level of the failed pin is the free value that the abort takes. -/
theorem bootEndsReadyOrWithError : Obligations.BootEndsReadyOrWithError := by
  intro s rest hv ho
  constructor
  · intro hw hend hs
    rw [step_of_boot_finished hv ho hw hend hs, endBoot_eq]
    rfl
  · intro pin b ack hw hs
    refine ⟨Config.failedPinLevel s.free, ?_⟩
    rw [step_of_boot_failed ho hw hs, endBoot_eq, failPin_eq]
    rfl

/-! ### The automatic initialization as a whole (R121, R123, R209) -/

/-- The step list of the automatic initialization is INIT's (R123). -/
theorem State.CurNamesSteps.steps_of_auto {s : State} (h : s.CurNamesSteps) (hv : s.cur.valid = true)
    (ho : s.cur.owner = .auto) : s.steps = initSteps s.cfg := by
  obtain ⟨i, -, hsteps, -, hinit, -⟩ := h hv
  rw [hsteps, hinit ho]
  rfl

/-- Settles O60: the step list is INIT's, it is walked to its end with the registers, the ports and the lock kept, and
`endBoot` follows. -/
theorem automaticInitializationRuns : Obligations.AutomaticInitializationRuns := by
  intro s rest h hv ho hk hj hw ht hs
  have hsteps : s.steps = initSteps s.cfg := h.cur.steps_of_auto hv ho
  obtain ⟨u, hrun, ⟨hkept, hpw, -, hsched⟩, hout⟩ := stepList_run_to_finish (p := 0) hv hw ht hk hj
    (h.cur.length_lt hv) (fun i hi => absurd (hsteps ▸ hi) (char_not_mem_initSteps s.cfg i)) (by rw [hsteps, hs])
  have hend : u.finish = u.endBoot .ready := finish_of_auto (by rw [hkept.cur, ho])
  rw [hsteps, hend, endBoot_out, hout] at hrun
  refine ⟨u.endBoot .ready, hrun, endBoot_eng u .ready, endBoot_valid u .ready, ?_, ?_, ?_, ?_, ?_, ?_⟩
  · rw [State.endBoot_lock, hkept.lock, h.lock.unlocked_of_auto ho]
  · rw [State.endBoot_dcr, hkept.dcr]
  · rw [State.endBoot_dmr, hkept.dmr]
  · rw [State.endBoot_pw, hpw]
  · rw [State.endBoot_ports, hkept.ports]
  · rw [State.endBoot_sched, hsched]

end Sys2Proof.Machine

/-! The serializer and PRINT (42_serializer_print.md): which ports can be granted, what the end of a step list sets, the
pagination rule, and the pin writes and the minimum duration of every operation. -/

namespace Sys2Proof.Machine

/-! ### Eligibility and the end of an operation (R137, R138) -/

/-- The grant of a port that is not eligible changes nothing: a free engine that has decoded an operation from its word
would make it eligible. -/
theorem grantMove_of_not_eligible {s : State} {p : Nat} (h : s.eligible p = false) : s.grantMove p = .next s := by
  unfold State.grantMove
  split
  · rename_i w hp
    split
    · rename_i hf
      split
      · rename_i i hd
        have he : s.eligible p = true := eligible_iff.mpr ⟨hf, w, hp, (legal_of_decode hd).1⟩
        exact absurd (h.symm.trans he) nofun
      · rfl
    · rfl
  · rfl

/-- Settles O16: eligibility is a free engine and a legal word, and every other grant is empty. -/
theorem eligiblePorts : Obligations.EligiblePorts := by
  refine fun s p => ⟨?_, fun rest hs he => ?_⟩
  · simp only [eligible_iff, engineFree_iff, legalOp_iff, and_assoc]
  · rw [step_of_sched hs]
    exact grantMove_of_not_eligible (s := s.popped rest) he

/-- Settles O20: past the last `MacroStep` the engine's step is the `End` of the owner's port. -/
theorem endReleasesTheLock : Obligations.EndReleasesTheLock := by
  intro s p rest hv ho hw hend hs
  rw [step_of_finish hs hv hw (List.getElem?_eq_none hend), finish_of_port (s := s.popped rest) ho, endOp_eq]
  rfl

/-! ### The pagination rule (R143 to R145) -/

/-- The start index, with the page of R11 as a number (R144). -/
theorem startIndex_eq (len : Nat) : startIndex len = if 1 < len / 80 then (len / 80 - 1) * 80 else 0 := rfl

/-- Below two pages the text is sent from its beginning (R144). -/
theorem startIndex_of_lt {len : Nat} (h : len < 160) : startIndex len = 0 := by
  rw [startIndex_eq, if_neg (by omega)]

/-- From two pages on the last full page and what follows it are sent (R144). -/
theorem startIndex_add {len : Nat} (h : 160 ≤ len) : startIndex len + (80 + len % 80) = len := by
  rw [startIndex_eq, if_pos (by omega)]
  omega

theorem startIndex_le_65440 {len : Nat} (h : len < 65536) : startIndex len ≤ 65440 := by
  rw [startIndex_eq]
  split <;> omega

/-- As many `Char`s as characters are sent (R143). -/
theorem printSteps_length (len : Nat) : (printSteps len).length = len - startIndex len := by simp [printSteps]

/-- The `Char`s of PRINT, in ascending order of their indices (R143). -/
theorem printSteps_getElem? {len k : Nat} (h : k < len - startIndex len) :
    (printSteps len)[k]? = some (.char (BitVec.ofNat 16 (startIndex len + k))) := by
  simp [printSteps, List.getElem?_range h]

/-- Settles O10: the list is `printSteps`, with its length and its elements. -/
theorem printWalksFromStartIndex : Obligations.PrintWalksFromStartIndex := by
  rintro s len start - hstart
  obtain rfl : start = startIndex len := hstart
  exact ⟨printSteps len, rfl, printSteps_length len, fun k hk => printSteps_getElem? hk⟩

/-- Settles O37: below two pages and from two pages on the start index is known. -/
theorem paginationArithmetic : Obligations.PaginationArithmetic := by
  refine ⟨rfl, rfl, fun len hlen => ⟨startIndex_eq len, startIndex_le_65440 hlen, startIndex_le len, fun h => ?_,
    fun h => ?_, sent_le len, stepListOf_length _ _⟩⟩
  · rw [startIndex_of_lt h, Nat.sub_zero]
  · exact Nat.sub_eq_of_eq_add' (startIndex_add h).symm

/-! ### Pin writes and minimum durations (R145, R243) -/

section
variable (l : List MacroStep)

/-- The counts of a step list are sums over its `MacroStep`s. -/
theorem counts_cons (st : MacroStep) :
    pinWrites (st :: l) = ((substepShape st).filter isWrite).length + pinWrites l ∧
      minDuration (st :: l) = ((substepShape st).map waitOf).sum + minDuration l := by
  simp [pinWrites, minDuration]

@[simp] theorem counts_nil : pinWrites [] = 0 ∧ minDuration [] = 0 := ⟨rfl, rfl⟩

@[simp] theorem counts_wait_cons (us : Nat) :
    pinWrites (.wait us :: l) = pinWrites l ∧ minDuration (.wait us :: l) = us + minDuration l :=
  ⟨rfl, (counts_cons l (.wait us)).2⟩

@[simp] theorem counts_nib_cons (n : Nibble) :
    pinWrites (.nib n :: l) = 6 + pinWrites l ∧ minDuration (.nib n :: l) = 1 + minDuration l :=
  counts_cons l (.nib n)

/-- What a `MacroStep` that sends a byte adds to the counts depends on the mode only. -/
theorem counts_cons_of_byte {st : MacroStep} {m : Bool} (h : substepShape st = byteSubsteps 0 m) :
    pinWrites (st :: l) = 13 + pinWrites l ∧ minDuration (st :: l) = (if m then 45 else 41) + minDuration l := by
  obtain ⟨hwrites, hwaits⟩ := counts_byteSubsteps 0 m
  rw [← hwrites, ← hwaits, ← h]
  exact counts_cons l st

@[simp] theorem counts_command_cons (v : Byte) :
    pinWrites (.byte v false :: l) = 13 + pinWrites l ∧ minDuration (.byte v false :: l) = 41 + minDuration l :=
  counts_cons_of_byte (m := false) l rfl

@[simp] theorem counts_reg_cons (r : Reg) :
    pinWrites (.reg r :: l) = 13 + pinWrites l ∧ minDuration (.reg r :: l) = 41 + minDuration l :=
  counts_cons_of_byte (m := false) l rfl

@[simp] theorem counts_char_cons (i : Half) :
    pinWrites (.char i :: l) = 13 + pinWrites l ∧ minDuration (.char i :: l) = 45 + minDuration l :=
  counts_cons_of_byte (m := true) l rfl

end

theorem counts_chars (f : Nat → Half) (ks : List Nat) :
    pinWrites (ks.map fun k => .char (f k)) = 13 * ks.length ∧
      minDuration (ks.map fun k => .char (f k)) = 45 * ks.length := by
  induction ks with
  | nil => exact counts_nil
  | cons k ks ih =>
    obtain ⟨hwrites, hwaits⟩ := ih
    simp only [List.map_cons, counts_char_cons, hwrites, hwaits, List.length_cons]
    omega

theorem counts_printSteps (len : Nat) : pinWrites (printSteps len) = 13 * (len - startIndex len) ∧
    minDuration (printSteps len) = 45 * (len - startIndex len) := by
  simpa only [printSteps, List.length_range] using
    counts_chars (fun k => BitVec.ofNat 16 (startIndex len + k)) (List.range (len - startIndex len))

theorem counts_initSteps (c : Cfg) : pinWrites (initSteps c) = 89 ∧ minDuration (initSteps c) = 22629 := by
  simp [initSteps, tPwron, tWake1, tWake2, tWake3, tClear]

/-- Settles O38: the counts of INIT and PRINT, and of the lists of one byte with a wait or without. -/
theorem writesAndDurations : Obligations.WritesAndDurations := by
  refine fun c => ⟨counts_initSteps c, counts_printSteps, ?_, ?_, fun col row => ?_, counts_nil⟩
  · simp [stepListOf, clearSteps, homeSteps, tClear, tHome]
  · simp [stepListOf, sendDcr, sendDmr, scrollLeftSteps, scrollRightSteps]
  · simp [stepListOf, setCursorSteps]

end Sys2Proof.Machine

/-! The display-state operations (43_display_state_ops.md): what each does to the state, and the one bit of a register
that a set/clear operation forces. -/

namespace Sys2Proof.Machine

/-! ### The register update and the step list (R156 to R167, R178, R179) -/

/-- Settles O6: each meaning is its mask's OR, or the AND with the mask's complement, and then DCR is sent. -/
theorem displayAndCursorOperations : Obligations.DisplayAndCursorOperations :=
  ⟨⟨rfl, rfl, rfl, rfl⟩, fun _ => ⟨rfl, rfl, rfl, rfl⟩⟩

/-- Settles O7: each meaning is its mask's OR, or the AND with the mask's complement, and then its register is sent. -/
theorem blinkAndModeOperations : Obligations.BlinkAndModeOperations :=
  fun _ => ⟨rfl, rfl, rfl, rfl, rfl, rfl⟩

/-- Settles O8: each meaning sets the step list alone. -/
theorem fixedByteOperations : Obligations.FixedByteOperations :=
  fun _ => ⟨rfl, rfl, rfl, rfl⟩

/-! ### The forced bit (R155, R168) -/

/-- The set/clear operations, each with its register, its bit and the value it forces (R156 to R161, R164 to R167). -/
def setClearOperations : List (Instr × Reg × Nat × Bool) :=
  [(.display, .dcr, 2, true), (.noDisplay, .dcr, 2, false), (.cursor, .dcr, 1, true), (.noCursor, .dcr, 1, false),
    (.blink, .dcr, 0, true), (.noBlink, .dcr, 0, false), (.leftToRight, .dmr, 1, true), (.rightToLeft, .dmr, 1, false),
    (.autoscroll, .dmr, 0, true), (.noAutoscroll, .dmr, 0, false)]

theorem getLsbD_setBits (v mask : Byte) (j : Nat) :
    (setBits v mask).getLsbD j = (v.getLsbD j || mask.getLsbD j) := BitVec.getLsbD_or

theorem getLsbD_clearBits (v mask : Byte) (j : Nat) :
    (clearBits v mask).getLsbD j = (v.getLsbD j && !mask.getLsbD j) := by
  have hlt : v.getLsbD j = true → j < 8 := BitVec.lt_of_getLsbD
  cases hv : v.getLsbD j <;> simp_all [clearBits]

/-- `v` with bit `k` turned on or off (R155). -/
def forceBit (v : Byte) (k : Nat) (b : Bool) : Byte :=
  if b then setBits v (BitVec.twoPow 8 k) else clearBits v (BitVec.twoPow 8 k)

theorem getLsbD_forceBit (v : Byte) {k : Nat} (hk : k < 8) (b : Bool) (j : Nat) :
    (forceBit v k b).getLsbD j = if j = k then b else v.getLsbD j := by
  have hmask : (BitVec.twoPow 8 k).getLsbD j = decide (j = k) := by
    simp [BitVec.getLsbD_twoPow, hk, eq_comm]
  cases b with
  | true =>
    rw [forceBit, if_pos rfl, getLsbD_setBits, hmask]
    by_cases hj : j = k <;> simp [hj]
  | false =>
    rw [forceBit, if_neg Bool.false_ne_true, getLsbD_clearBits, hmask]
    by_cases hj : j = k <;> simp [hj]

/-- A set/clear operation forces its bit of its register, and leaves the other register. -/
theorem regAfter_setClear : ∀ x ∈ setClearOperations, ∀ (q : Reg) (v : Byte),
    regAfter x.1 q v = if q = x.2.1 then forceBit v x.2.2.1 x.2.2.2 else v := by
  intro x hx q v
  fin_cases hx <;> cases q <;> rfl

theorem setClear_bit_lt : ∀ x ∈ setClearOperations, x.2.2.1 < 8 := by decide

/-- `exec_registers`, for either register. -/
theorem exec_reg {i : Instr} {s t : State} (h : exec i s = .next t) (q : Reg) : t.reg q = regAfter i q (s.reg q) := by
  obtain ⟨hdcr, hdmr⟩ := exec_registers h
  cases q with
  | dcr => exact hdcr
  | dmr => exact hdmr

/-- Settles O14: the registers are `regAfter`'s, which forces one bit of one of them. -/
theorem setClearForcesOneBit : Obligations.SetClearForcesOneBit := by
  intro i r k b s hi
  obtain ⟨t, ht⟩ := exec_next i s
  have hreg : ∀ q, t.reg q = if q = r then forceBit (s.reg q) k b else s.reg q := fun q =>
    (exec_reg ht q).trans (regAfter_setClear (i, r, k, b) hi q (s.reg q))
  have hbit : ∀ j, (t.reg r).getLsbD j = if j = k then b else (s.reg r).getLsbD j := fun j => by
    rw [hreg r, if_pos rfl, getLsbD_forceBit _ (setClear_bit_lt (i, r, k, b) hi)]
  exact ⟨t, ht, by rw [hbit, if_pos rfl], fun j hj => by rw [hbit, if_neg hj], fun q hq => by rw [hreg, if_neg hq]⟩

end Sys2Proof.Machine

/-! SETCURSOR (44_cursor_clear_home.md): the row clamp, the row table and the byte that is sent. -/

namespace Sys2Proof.Machine

/-- R176: a legal configuration has a row, so the clamp stays below `ROWS`. -/
theorem clampRow_lt {c : Cfg} (hc : c.wf = true) (row : Nat) : clampRow c.rows row < c.rows := by
  obtain ⟨hrows, -⟩ : 1 ≤ c.rows ∧ c.rows ≤ 4 := by simpa [Cfg.wf] using hc
  rw [clampRow]
  split <;> omega

/-- The table of R177 is `rowOffset` at its four indices. -/
theorem toNat_of_rowOffset_table {r : Nat} {offset : Byte}
    (h : ([0x00, 0x40, 0x14, 0x54] : List Byte)[r]? = some offset) : offset.toNat = rowOffset r := by
  match r, h with
  | 0, h | 1, h | 2, h | 3, h => cases h; rfl

/-- The byte sent, from the clamped row (R175 to R177). -/
theorem cursorByte_eq {c : Cfg} {row r : Nat} (hr : clampRow c.rows row = r) (col : Nat) :
    cursorByte c col row = 0x80 ||| BitVec.ofNat 8 ((col + rowOffset r) % 256) := by
  subst hr
  exact congrArg (cmdSetAddress ||| ·) (BitVec.eq_of_toNat_eq (by simp [cursorAddress]))

/-- R88: bit 7 is the set-address command's, whatever the address. -/
theorem getLsbD_cursorByte_seven (c : Cfg) (col row : Nat) : (cursorByte c col row).getLsbD 7 = true := by
  rw [cursorByte, BitVec.getLsbD_or, show cmdSetAddress.getLsbD 7 = true from rfl, Bool.true_or]

/-- Settles O9: the step list is the byte of the clamped row, and the two corner columns are that byte at rows 0
and 3 (R180). -/
theorem setCursorSendsAddress : Obligations.SetCursorSendsAddress := by
  intro s col row r offset hc hr htable
  have hclamp : clampRow s.cfg.rows row = r := hr.symm
  refine ⟨?_, hclamp ▸ clampRow_lt hc row, getLsbD_cursorByte_seven .., ?_, ?_⟩
  · rw [toNat_of_rowOffset_table htable, ← cursorByte_eq hclamp]
    rfl
  · rintro rfl
    exact cursorByte_eq hclamp 200
  · rintro rfl
    exact cursorByte_eq hclamp 0xAC

end Sys2Proof.Machine

/-! CLOSE (45_close.md): its meaning, and the closed engine, which stays closed and drives no pin until reset. -/

namespace Sys2Proof.Machine

/-- Settles O12: the meaning clears OE, closes the engine and empties the step list, field by field. -/
theorem closeReleasesThePins : Obligations.CloseReleasesThePins := ⟨rfl, fun _ => rfl⟩

/-! ### The closed engine (R186, R187) -/

section
variable {s t : State} {m : Move}

/-- A write in flight is at a substep of the step list, and a closed engine walks none. -/
theorem State.Inv.pw_of_closed (h : s.Inv) (hclosed : s.eng = .closed) : s.pw = none :=
  Option.eq_none_iff_forall_ne_some.mpr fun w hw => by
    obtain ⟨hv, -, hsub⟩ := h.write w.1 w.2 hw
    obtain ⟨st, hc, -⟩ := currentStep_of_currentSubstep hsub
    exact h.open_of_currentStep hv hc hclosed

/-- Of a closed engine's moves that are no reset, only the end of the CLOSE itself reaches more than the ports and the
outputs: nothing is in flight, there is no step to take, and no port is granted. -/
theorem effect_of_closed (h : s.Inv) (hclosed : s.eng = .closed) (he : Effect s m t) (hm : ∀ c, m ≠ .reset c) :
    t.eng = .closed ∧ t.pw = none ∧ t.dcr = s.dcr ∧ t.dmr = s.dmr ∧ t.pins = s.pins := by
  have hw := h.pw_of_closed hclosed
  cases he with
  | still | word | text | rejected | completed => exact ⟨hclosed, hw, rfl, rfl, rfl⟩
  | reset c => exact absurd rfl (hm c)
  | failed _ _ _ hw' | acked _ _ hw' => cases hw.symm.trans hw'
  | finished hv =>
    have heng : s.finish.eng = .closed := by simpa [hclosed] using finish_eng h.lock hv
    exact ⟨heng, by simpa using hw, by simp, by simp, by simp⟩
  | issued _ _ _ hv _ hc | waited _ _ hv _ hc => exact absurd hclosed (h.open_of_currentStep hv hc)
  | granted p w i t hp hf => cases hclosed.symm.trans (engineFree_iff.mp hf).1

end

/-- Settles O55: the move keeps the engine closed, so the invariant of the next state keeps the pins released, and a
write is issued only while they are owned. -/
theorem closedUntilReset : Obligations.ClosedUntilReset := by
  intro s t h hclosed hr hst
  obtain ⟨m, n, he, hm⟩ := step_effect hst
  obtain ⟨heng, hw, hdcr, hdmr, hpins⟩ :=
    effect_of_closed (s := s.advanceSched n) h.withSched hclosed he (not_reset_of_step hr hm)
  have hoe : t.oe = false := (everyStepKeepsInvariant s t h hst).pins.mpr heng
  refine ⟨heng, hoe, hw, hdcr, hdmr, hpins, fun pin b hissued => ?_⟩
  obtain ⟨-, -, -, howned, -⟩ := writesBelongToTheOperation s t pin b h hst hissued
  exact absurd (howned.symm.trans (h.pins.mpr hclosed)) nofun

end Sys2Proof.Machine

/-! The phases and the rejection (60_exceptions.md): which moves change the phase and what they show, and what the
rejection of a posted word does in every phase. -/

namespace Sys2Proof.Machine

/-! ### The phase transitions (R204) -/

section
variable {s t : State} {m : Move}

/-- The phase after reset (R220). -/
theorem applyReset_eng (s : State) (c : Cfg) :
    (s.applyReset c).eng = if c.suppressAutoInit then .opened else .boot := rfl

/-- What ends in BOOT is the automatic initialization, and its end shows READY or BOOT_ERR (R123, R209). -/
theorem State.EndedIn.boot_event (h : s.EndedIn t) (hlock : s.LockConsistent) (hboot : s.eng = .boot) :
    Event.ready ∈ t.out ∨ ∃ pin, Event.bootErr pin ∈ t.out := by
  obtain ⟨-, hauto⟩ := hlock.boot_auto.mp hboot
  obtain ⟨-, -, ⟨p, -, -, hport, -⟩ | ⟨-, hevent⟩⟩ := h
  · cases hauto.symm.trans hport
  · exact hevent

/-- A grant closes the engine when it is a CLOSE's, and else keeps the phase (R136, R185). -/
theorem grant_eng {p : Nat} {w : Word} {i : Instr} (hx : exec i (s.takeUp p w) = .next t) :
    t.eng = if i = .close then .closed else s.eng := (exec_phase hx).1

theorem grant_out {p : Nat} {w : Word} {i : Instr} (hx : exec i (s.takeUp p w) = .next t) :
    t.out = s.out ++ [.granted p] := exec_out hx

/-- Only a grant shows that it has happened (R136). -/
theorem grant_of_event {p : Nat} (he : Effect s m t) (ho : s.out = []) (hmem : Event.granted p ∈ t.out) :
    ∃ w i, s.pend p = some (.posted w) ∧ decode w = .request i ∧ exec i (s.takeUp p w) = .next t := by
  have hstart : ∀ st, Event.granted p ∉ (s.started st).out := by
    intro st h
    rcases mem_started_out h with h | ⟨i, -, -, h⟩
    · simp [ho] at h
    · cases h
  cases he with
  | granted q w i t hp hf hd hx =>
    obtain rfl : p = q := by simpa [grant_out hx, ho] using hmem
    exact ⟨w, i, hp, hd, hx⟩
  | issued st => simp [State.issue, hstart] at hmem
  | waited st us =>
    rcases mem_waitStep_out hmem with h | h | h
    · exact absurd h (hstart st)
    · cases h
    · cases h
  | failed pin =>
    cases hq : s.cur.owner with
    | port q => simp [abort_of_port hq, endOp_out, failPin_out, ho] at hmem
    | auto => simp [abort_of_auto hq, endBoot_out, failPin_out, ho] at hmem
  | finished =>
    cases hq : s.cur.owner with
    | port q => simp [finish_of_port hq, endOp_out, ho] at hmem
    | auto => simp [finish_of_auto hq, endBoot_out, ho] at hmem
  | reset | acked | rejected | completed =>
    simp [State.applyReset, State.ackWrite, State.rejectPort, State.completePort, ho] at hmem
  | still | word | text => simp [ho] at hmem

/-- A move that is no reset changes the phase at the end of the automatic initialization and at the grant of a CLOSE. -/
theorem effect_phase (h : s.Inv) (he : Effect s m t) (hm : ∀ c, m ≠ .reset c) :
    t.eng = s.eng ∨
    (s.eng = .boot ∧ t.eng = .opened ∧ (Event.ready ∈ t.out ∨ ∃ pin, Event.bootErr pin ∈ t.out)) ∨
    (s.eng = .opened ∧ t.eng = .closed ∧
      ∃ p w, s.pend p = some (.posted w) ∧ decode w = .request .close ∧ Event.granted p ∈ t.out) := by
  cases he with
  | reset c => exact absurd rfl (hm c)
  | failed pin b ack hw =>
    exact (abort_eng h.lock (h.write pin b hw).1 pin).imp_right fun ⟨hboot, hopen⟩ =>
      .inl ⟨hboot, hopen, (endedIn_abort h.lock pin).boot_event h.lock hboot⟩
  | finished hv =>
    exact (finish_eng h.lock hv).imp_right fun ⟨hboot, hopen⟩ =>
      .inl ⟨hboot, hopen, (endedIn_finish h.lock).boot_event h.lock hboot⟩
  | granted p w i t hp hf hd hx =>
    have heng := grant_eng hx
    split at heng
    · subst i
      exact .inr (.inr ⟨(engineFree_iff.mp hf).1, heng, p, w, hp, hd, by simp [grant_out hx]⟩)
    · exact .inl heng
  | _ => simp

end

/-- Settles O54: a move changes the phase as `effect_phase` says; READY and BOOT_ERR are the end of the automatic
initialization, and the event of a grant is that of the posted word. -/
theorem phaseTransitions : Obligations.PhaseTransitions := by
  refine ⟨fun s t c hc hst => ?_, fun s t h hr hst => ?_⟩
  · obtain ⟨rest, hs⟩ := List.head?_eq_some_iff.mp hc
    cases hwf : c.wf with
    | true => rw [step_of_reset hs hwf] at hst; cases hst; exact applyReset_eng _ c
    | false => rw [step_of_bad_reset hs hwf] at hst; cases hst
  · obtain ⟨m, n, he, hm⟩ := step_effect hst
    refine ⟨effect_phase (s := s.advanceSched n) h.withSched he (not_reset_of_step hr hm), fun hboot => ?_,
      fun p w hp hd hgrant => ?_⟩
    · have hshown : t.readyOut = true ∨ t.bootErrOut ≠ none := by
        simpa [readyOut_iff, bootErrOut_eq_none_iff] using hboot
      obtain ⟨-, heng, -⟩ := boot_of_event hst hshown
      exact heng
    · obtain ⟨w', i, hp', hd', hx⟩ := grant_of_event he rfl hgrant
      cases hp.symm.trans hp'
      cases hd.symm.trans hd'
      exact grant_eng hx

/-! ### The rejection step (R191, R192, R194, R197) -/

section
variable {s : State} {p : Nat} {w : Word}

theorem rejection_of_illegal (h : 0x11 < (opField w).toNat) : s.rejection w = some .errProgramming := by
  have hw : ¬legalOp (opField w) = true := by rw [legalOp_iff]; omega
  exact if_neg hw

theorem rejection_of_legal (h : (opField w).toNat ≤ 0x11) :
    s.rejection w = if s.eng = .closed then some .errClosed else none :=
  if_pos ((legalOp_iff _).mpr h)

theorem rejectMove_of_rejection {status : Status} (hp : s.pend p = some (.posted w))
    (hr : s.rejection w = some status) : s.rejectMove p = s.rejectPort p w status := by
  simp only [State.rejectMove, hp, hr]

theorem rejectMove_of_no_rejection (hp : s.pend p = some (.posted w)) (hr : s.rejection w = none) :
    s.rejectMove p = s := by
  simp only [State.rejectMove, hp, hr]

end

/-- Settles O19: the opcode and the phase say whether the word is rejected, and with which status. -/
theorem rejectionsChangeOnlyTheRequest : Obligations.RejectionsChangeOnlyTheRequest := by
  intro s p w rest hp hs
  have hstep : step s = .next ((s.popped rest).rejectMove p) := step_of_sched hs
  have hpop : (s.popped rest).pend p = some (.posted w) := hp
  refine ⟨fun hop => ?_, fun hop hclosed => ?_, fun hop hopen => ?_⟩
  · rw [hstep, rejectMove_of_rejection hpop (rejection_of_illegal hop)]
    rfl
  · rw [hstep, rejectMove_of_rejection hpop ((rejection_of_legal hop).trans (if_pos hclosed))]
    rfl
  · rw [hstep, rejectMove_of_no_rejection hpop ((rejection_of_legal hop).trans (if_neg hopen))]
    rfl

end Sys2Proof.Machine
